-- ==== Sys2Proof/Word.lean ====
section
/-! DEFINITION. The word types: bytes, 16-bit words and byte sequences (00_scope.md R19, R20). -/

namespace Sys2Proof

/-- An 8-bit unsigned value: a byte of the stream, a port number, a counter index (R17, R19). -/
abbrev Byte := BitVec 8

/-- A 16-bit value: a command word (30_encoding.md R74) or a checksum (R13). -/
abbrev Word := BitVec 16

/-- A byte sequence, head first (R20). -/
abbrev Bytes := List Byte

end Sys2Proof
end

