-- ==== Sys2Proof/Syntax.lean ====
section
/-! DEFINITION. The instructions: one constructor for each row of spec/opcode_table.json (30_encoding.md R75). -/

namespace Sys2Proof

/-- The four host operations. -/
inductive Instr where
  /-- `PROCESS` (42_host_operations.md R107). -/
  | process
  /-- `REGISTER p` (R111). -/
  | register (p : Byte)
  /-- `STATS_READ i` (R112). -/
  | statsRead (i : Byte)
  /-- `STATS_CLEAR` (R114). -/
  | statsClear
deriving DecidableEq, Repr

end Sys2Proof
end

