-- ==== Sys2Proof/WellFormed.lean ====
section
/-! DEFINITION. Which instruction terms have an encoding (30_encoding.md R75 to R77). -/

namespace Sys2Proof

/-- R77: a `STATS_READ` index is 0 to 6. Every port number is legal (R17), and the other two take no operand. -/
def Instr.wf : Instr → Bool
  | .process => true
  | .register _ => true
  | .statsRead i => decide (i.toNat < 7)
  | .statsClear => true

end Sys2Proof
end

