-- ==== Sys2Proof/Decode.lean ====
section
/-! DEFINITION. The command word `CMD16` (30_encoding.md R74 to R79): the decoder, total on all 65536 words, and
the encoder. -/

namespace Sys2Proof

/-- Why a word is illegal (R77). The host sees one status for all of them (R115). -/
inductive DecodeError where
  /-- `OP` is `0x0` or `0x5` to `0xF`. -/
  | reservedOp
  /-- `RSV` is not zero. -/
  | reservedBits
  /-- `PROCESS` or `STATS_CLEAR` with a non-zero `ARG`. -/
  | nonzeroArg
  /-- `STATS_READ` with an index of 7 or more. -/
  | reservedIndex
deriving DecidableEq, Repr

/-- R74: bits 3:0. -/
def cmdOp (w : Word) : BitVec 4 := w.extractLsb' 0 4

/-- R74: bits 7:4. -/
def cmdRsv (w : Word) : BitVec 4 := w.extractLsb' 4 4

/-- R74, R76: bits 15:8, never extended, scaled or shifted. -/
def cmdArg (w : Word) : Byte := w.extractLsb' 8 8

/-- R75, R77, R79: the instruction a command word stands for, or why it is illegal. -/
def decode (w : Word) : Except DecodeError Instr :=
  if cmdRsv w ≠ 0#4 then .error .reservedBits
  else if cmdOp w = 0x1#4 then
    if cmdArg w = 0#8 then .ok .process else .error .nonzeroArg
  else if cmdOp w = 0x2#4 then .ok (.register (cmdArg w))
  else if cmdOp w = 0x3#4 then
    if (cmdArg w).toNat < 7 then .ok (.statsRead (cmdArg w)) else .error .reservedIndex
  else if cmdOp w = 0x4#4 then
    if cmdArg w = 0#8 then .ok .statsClear else .error .nonzeroArg
  else .error .reservedOp

/-- R74: the word with the given `ARG` and `OP`, and `RSV` zero. -/
def cmdWord (arg : Byte) (op : BitVec 4) : Word := (arg.setWidth 16 <<< 8) ||| op.setWidth 16

/-- R75: the command word of an instruction. -/
def encode : Instr → Word
  | .process => cmdWord 0#8 0x1#4
  | .register p => cmdWord p 0x2#4
  | .statsRead i => cmdWord i 0x3#4
  | .statsClear => cmdWord 0#8 0x4#4

/-- The host's question: what the decoder reads from a row's word of `nbits` bits. A command is one 16-bit word,
so the bits above `nbits` are zero. -/
def decodeTableWord (nbits w : Nat) : Option Instr :=
  (decode (BitVec.ofNat 16 (w % 2 ^ nbits))).toOption

end Sys2Proof
end

