-- ==== Sys2Proof/Config.lean ====
section
/-! DEFINITION. The implementation parameters (00_scope.md R7 to R18), the conditions a configuration must meet
(70_reset_and_hazards.md R138), and the opaque constants that stand for what the spec leaves open. -/

namespace Sys2Proof

/-- R7: the width in bytes of both magics. -/
def magicW : Nat := 2

/-- R8: the header's length in bytes. -/
def hdrLen : Nat := 6

/-- R8: the trailer's length in bytes. -/
def trlLen : Nat := 2

/-- A magic: two bytes in wire order (R9, R10). -/
structure Magic where
  b0 : Byte
  b1 : Byte
deriving DecidableEq, Repr, Inhabited

/-- R9, R10: the wire bytes of a magic given as a 16-bit constant, low byte first. -/
def Magic.ofConst (v : Word) : Magic :=
  { b0 := v.extractLsb' 0 8, b1 := v.extractLsb' 8 8 }

/-- R13 and 92_eei_decisions.md D5: `CRC_XOROUT` is `0x0000` or `0xFFFF`. -/
inductive XorOut where
  | zeros
  | ones
deriving DecidableEq, Repr

/-- The 16-bit value of `CRC_XOROUT`. -/
def XorOut.value : XorOut → Word
  | .zeros => 0x0000#16
  | .ones => 0xFFFF#16

/-- R16: `SYNC_TAIL_RULE`. -/
inductive SyncTailRule where
  | keepLast
  | keepIfPrefix
deriving DecidableEq, Repr

/-- The parameters of R9 to R16, before they are checked. `cmdPortPlacement` is `CMD_PORT_PLACEMENT`
(20_memory.md R54): where the command port sits in the host's address space, if anywhere. No rule reads it. -/
structure Params where
  hm : Magic
  tm : Magic
  maxPayload : Nat := 56
  crcXorOut : XorOut := .zeros
  bufCap : Nat := 256
  ctrW : Nat := 32
  syncTailRule : SyncTailRule := .keepLast
  cmdPortPlacement : Option Nat := none
deriving DecidableEq, Repr

/-- R12: `MAX_FRAME = HDR_LEN + MAX_PAYLOAD + TRL_LEN`. -/
def Params.maxFrame (p : Params) : Nat := hdrLen + p.maxPayload + trlLen

/-- R138: the four conditions on a configuration. -/
abbrev Params.WF (p : Params) : Prop :=
  p.hm ≠ p.tm ∧ p.maxPayload ≤ 255 ∧ p.maxFrame ≤ p.bufCap ∧ 1 ≤ p.ctrW

/-- A well-formed configuration. It carries its own check, so that no ill-formed one can be built: R138 "a model
refuses any other configuration". -/
structure Config extends Params where
  ok : decide toParams.WF = true
deriving DecidableEq, Repr

/-- The configuration that parameters make, where R138 admits them. -/
def Config.ofParams? (p : Params) : Option Config :=
  if h : decide p.WF = true then some { toParams := p, ok := h } else none

/-- R18: the test parameter set `P0`. -/
def Params.P0 : Params := { hm := ⟨0xA5#8, 0x5A#8⟩, tm := ⟨0xC3#8, 0x3C#8⟩ }

/-- R18: the test parameter set `P1`, whose magics have two equal bytes each. -/
def Params.P1 : Params := { hm := ⟨0xAA#8, 0xAA#8⟩, tm := ⟨0x55#8, 0x55#8⟩ }

/-- `P0` as a configuration. -/
def Config.P0 : Config := { toParams := Params.P0, ok := by decide }

/-- `P1` as a configuration. -/
def Config.P1 : Config := { toParams := Params.P1, ok := by decide }

/-- R9: the header magic, OPEN (92_eei_decisions.md D3). Free: log entry 2. -/
opaque Config.openHM : Magic

/-- R10: a candidate for the trailer magic, OPEN. Free: log entry 2. -/
opaque Config.openTM : Magic

/-- R54: `CMD_PORT_PLACEMENT`, OPEN. Free: log entry 2. -/
opaque Config.openCmdPort : Option Nat

/-- R21: `BufRead(i)` is defined only inside the buffer; this is the free byte that a read outside it gives.
No reachable state makes such a read. Free: log entry 14. -/
opaque Config.freeByte : Nat → Byte

/-- R10: the trailer magic is distinct from the header magic. Every pair of distinct magics is
`(hm, tm.distinctFrom hm)` for some `tm`. -/
def Magic.distinctFrom (tm hm : Magic) : Magic :=
  if tm = hm then { tm with b1 := tm.b1 ^^^ 1#8 } else tm

theorem Magic.ne_distinctFrom (tm hm : Magic) : hm ≠ tm.distinctFrom hm := by
  unfold Magic.distinctFrom
  split
  · rename_i h
    subst h
    intro h'
    have h1 := congrArg Magic.b1 h'
    simp only at h1
    have h2 : tm.b1 ^^^ tm.b1 = tm.b1 ^^^ (tm.b1 ^^^ 1#8) := congrArg (tm.b1 ^^^ ·) h1
    rw [BitVec.xor_self, ← BitVec.xor_assoc, BitVec.xor_self, BitVec.zero_xor] at h2
    exact absurd h2 (by decide)
  · rename_i h
    exact fun h' => h h'.symm

/-- The parameters of the deployed block: the open ones free, every other one at the spec's default (log entry 3). -/
def Params.deployed : Params :=
  { hm := Config.openHM
    tm := Config.openTM.distinctFrom Config.openHM
    cmdPortPlacement := Config.openCmdPort }

/-- The configuration that `State.reset` holds. -/
def Config.deployed : Config :=
  { toParams := Params.deployed
    ok := decide_eq_true
      ⟨Magic.ne_distinctFrom _ _, by simp [Params.deployed],
        by simp [Params.deployed, Params.maxFrame, hdrLen, trlLen], by simp [Params.deployed]⟩ }

end Sys2Proof
end

