-- ==== Sys2Proof/Machine/State.lean ====
section
/-! DEFINITION. The state as plain data: the block's own state (10_state.md R25), the transport (20_memory.md R49),
what the host observes, and the agents' moves still to come; its value after reset; the ways a step can stop. -/

namespace Sys2Proof.Machine

/-- R26: the receiver state register, exactly three values. -/
inductive RxState where
  | searchingSync
  | awaitingHeader
  | awaitingBody
deriving DecidableEq, Repr

/-- R31: the names of the seven counters. -/
inductive CtrName where
  | rcvMsgs
  | rcvBytes
  | droppedBytes
  | crcErr
  | sizeErr
  | trailerErr
  | noReceiver
deriving DecidableEq, Repr

/-- R31, R33: the statistics counters, each kept below `2 ^ CTR_W` by the one operation that increments them. -/
structure Counters where
  rcvMsgs : Nat
  rcvBytes : Nat
  droppedBytes : Nat
  crcErr : Nat
  sizeErr : Nat
  trailerErr : Nat
  noReceiver : Nat
deriving DecidableEq, Repr

/-- R42, R114: every counter at zero. -/
def Counters.zero : Counters :=
  { rcvMsgs := 0, rcvBytes := 0, droppedBytes := 0, crcErr := 0, sizeErr := 0, trailerErr := 0, noReceiver := 0 }

/-- R25: the block's state, exactly. -/
structure Block where
  /-- R26. -/
  st : RxState
  /-- R28: byte 0 is the head, the oldest byte not yet consumed. -/
  buf : Bytes
  /-- R29: declared payload length. -/
  hSize : Byte
  /-- R29: port. -/
  hPort : Byte
  /-- R29: checksum captured from the header. -/
  hCrc : Word
  /-- R29: frame length. -/
  fLen : BitVec 9
  /-- R31. -/
  ctr : Counters
  /-- R35: bit `p` is set when a handler is registered for port `p`. -/
  reg : BitVec 256
deriving DecidableEq, Repr

/-- R42, R135: the block right after reset. -/
def Block.reset : Block :=
  { st := .searchingSync, buf := [], hSize := 0#8, hPort := 0#8, hCrc := 0#16, fLen := 0#9
    ctr := Counters.zero, reg := 0#256 }

/-- R119: the step outcome codes. -/
inductive StepOutcome where
  | wait
  | syncHead
  | syncSkip
  | nosyncDrop
  | hdrOk
  | errSize
  | errTrailer
  | errCrc
  | frameDispatched
  | frameNoReceiver
deriving DecidableEq, Repr

/-- R118: the error causes. -/
inductive Cause where
  | size
  | trailer
  | crc
  | noReceiver
  | dropped
  | io
  | illegal
deriving DecidableEq, Repr

/-- R110: a dispatch event. -/
structure Dispatch where
  port : Byte
  payload : Bytes
deriving DecidableEq, Repr

/-- R78: the response status. -/
inductive Status where
  | ok
  | ioError
  | illegal
deriving DecidableEq, Repr

/-- R78: the response to a host operation; `data` is a `CTR_W`-bit value. -/
structure Response where
  status : Status
  data : Nat
deriving DecidableEq, Repr

/-- R51, R52, R123: what a `read` does. Each draw is cut to what the transport's contract admits (log entry 7). -/
inductive ReadDraw where
  /-- Every byte asked for that is there: `j = min(max_count, |T|)`. -/
  | full
  /-- At most `j` bytes. -/
  | upTo (j : Nat)
  /-- The call fails, and at most `lost` bytes are gone from the head of `T`. -/
  | fail (lost : Nat)
deriving DecidableEq, Repr

/-- The environment's draws for the transport calls of one `PROCESS`. -/
structure Draw where
  /-- R52: `bytes_available` fails. -/
  availFails : Bool
  /-- R57: what the link appends to `T` after `bytes_available` and before `read`. -/
  arrivals : Bytes
  /-- R51, R52: what `read` does. -/
  read : ReadDraw
deriving DecidableEq, Repr

/-- R82: "Unless a program says otherwise, every read returns j = min(max_count, |T|)". -/
def Draw.answering : Draw := { availFails := false, arrivals := [], read := .full }

/-- The transport: the FIFO `T` (R49) and the draws of the next `PROCESS` operations, first one first. -/
structure Transport where
  fifo : Bytes
  draws : List Draw
deriving DecidableEq, Repr

/-- What leaves the block, and the step trace: a history, oldest first (log entry 10). -/
structure Obs where
  /-- R78: the responses. -/
  responses : List Response
  /-- R110: the dispatch output. -/
  events : List Dispatch
  /-- R104, R119: the outcome codes of the receiver steps. -/
  trace : List StepOutcome
deriving DecidableEq, Repr

/-- A move of one of the agents of R3, or a reset (R135). -/
inductive Move where
  /-- The link appends bytes to the transport FIFO (R49). -/
  | link (bytes : Bytes)
  /-- The transport settles its draws for one more `PROCESS` (R51, R52). -/
  | transport (d : Draw)
  /-- The transport settles that its next call fails (R52, R82). -/
  | failNext
  /-- The host issues a command word (R73). -/
  | host (w : Word)
  /-- The block is reset (R135). -/
  | reset
deriving DecidableEq, Repr

/-- The machine: the block, its configuration, its environment and what it has let out. -/
structure State where
  /-- R25: "a parameter of the step relation, not state". No step writes it (log entry 1). -/
  cfg : Config
  block : Block
  transport : Transport
  obs : Obs
  /-- The agents' moves to come, first one first (R27: the program of a run is the host's sequence of operations). -/
  moves : List Move
deriving DecidableEq, Repr

/-- The faults. There are none: R120 "The block has no fault state, no stuck state and no error latch". -/
inductive Fault where
deriving DecidableEq, Repr

/-- The refusals. No meaning answers with one. -/
inductive Refusal where
  /-- An arm of `exec` without a meaning would answer this. No arm does. Safe: the run stops. -/
  | notModelled (mnemonic : String)
  /-- R138: `State.instantiate` refuses an ill-formed configuration. Safe: no block exists. -/
  | badConfiguration
deriving DecidableEq, Repr

/-- The machine right after reset under the configuration `c`, with nothing delivered, nothing observed and no move
to come (log entry 11). -/
def State.resetWith (c : Config) : State :=
  { cfg := c
    block := Block.reset
    transport := { fifo := [], draws := [] }
    obs := { responses := [], events := [], trace := [] }
    moves := [] }

/-- R42, R135: the machine right after reset, its open parameters free (log entries 2 and 3). -/
def State.reset : State := State.resetWith Config.deployed

/-- R138: the block is made from its parameters, or refused. -/
def State.instantiate (p : Params) : Host.Outcome State Fault Refusal :=
  match Config.ofParams? p with
  | some c => .next (State.resetWith c)
  | none => .refused .badConfiguration

end Sys2Proof.Machine
end

