-- ==== Sys2Proof/Machine/Operands.lean ====
section
/-! DEFINITION. The operands that steps and operations read: bytes and runs of the buffer (00_scope.md R21,
20_memory.md R48), the fields of a frame (30_encoding.md R63 to R70), the counter index and the registry bit. -/

namespace Sys2Proof.Machine

/-- R21: `BufRead(i)`. Outside the sequence the byte is free (log entry 14). -/
def byteAt (s : Bytes) (i : Nat) : Byte := s.getD i (Config.freeByte i)

/-- R20: `s[a ..< b]`. -/
def slice (s : Bytes) (a b : Nat) : Bytes := (s.drop a).take (b - a)

/-- R67: `field16(lo, hi) = lo | (hi << 8)`, the low byte first on the wire. -/
def field16 (lo hi : Byte) : Word := lo.setWidth 16 ||| (hi.setWidth 16 <<< 8)

/-- R44: the low byte of a 16-bit value. -/
def lowByte (v : Word) : Byte := v.extractLsb' 0 8

/-- R44: the high byte of a 16-bit value. -/
def highByte (v : Word) : Byte := v.extractLsb' 8 8

/-- R45: the two bytes at offset `i` are the given magic, compared one by one in wire order. -/
def magicAt (m : Magic) (s : Bytes) (i : Nat) : Bool :=
  byteAt s i == m.b0 && byteAt s (i + 1) == m.b1

/-- R62, R70: `HDR_LEN + size + TRL_LEN`. -/
def frameLen (size : Byte) : Nat := hdrLen + size.toNat + trlLen

/-- R99: the offset of the trailer, `HDR_LEN + size`. -/
def trailerOffset (size : Byte) : Nat := hdrLen + size.toNat

/-- R68, R101: the payload of the frame at the head of `s`, `s[HDR_LEN ..< HDR_LEN + size]`. -/
def payloadOf (s : Bytes) (size : Byte) : Bytes := slice s hdrLen (hdrLen + size.toNat)

/-- R31, R76: the counter an index names; 7 to 255 are reserved (R34). -/
def counterOf (i : Byte) : Option CtrName :=
  match i.toNat with
  | 0 => some .rcvMsgs
  | 1 => some .rcvBytes
  | 2 => some .droppedBytes
  | 3 => some .crcErr
  | 4 => some .sizeErr
  | 5 => some .trailerErr
  | 6 => some .noReceiver
  | _ => none

/-- R21, R35: `reg[p]`, exact match on the 8-bit port. -/
def regBit (reg : BitVec 256) (p : Byte) : Bool := reg.getLsbD p.toNat

/-- R21, R36: `reg[p] <- 1`. -/
def regSet (reg : BitVec 256) (p : Byte) : BitVec 256 := reg ||| (1#256 <<< p.toNat)

end Sys2Proof.Machine
end

