-- ==== Sys2Proof/Machine/Codec.lean ====
section
/-! DEFINITION. The frame codec (40_frame_codec.md): the checksum in both of its forms, the checksum of a frame,
the valid frames (30_encoding.md R71) and the reference encoder, which is no operation of the hardware. -/

namespace Sys2Proof.Machine

/-- R83: one bit of the shift-right loop. -/
def crcBit (v : Word) : Word :=
  if v.getLsbD 0 then (v >>> 1) ^^^ 0xA001#16 else v >>> 1

/-- R83: one byte enters the checksum. -/
def crcByte (v : Word) (x : Byte) : Word :=
  crcBit (crcBit (crcBit (crcBit (crcBit (crcBit (crcBit (crcBit (v ^^^ x.setWidth 16))))))))

/-- R83: the checksum register after the bytes `s`, started at `v`. -/
def crcFold (v : Word) (s : Bytes) : Word := s.foldl crcByte v

/-- R83: `CRC16(s)`. -/
def crc16 (c : Config) (s : Bytes) : Word := crcFold 0xFFFF#16 s ^^^ c.crcXorOut.value

/-- R84: one bit of the non-reflected loop. -/
def crcBitDirect (r : Word) : Word :=
  if r.getLsbD 15 then (r <<< 1) ^^^ 0x8005#16 else r <<< 1

/-- R84: one byte enters the non-reflected loop, its bits reversed. -/
def crcByteDirect (r : Word) (x : Byte) : Word :=
  crcBitDirect (crcBitDirect (crcBitDirect (crcBitDirect (crcBitDirect (crcBitDirect (crcBitDirect
    (crcBitDirect (r ^^^ (x.reverse.setWidth 16 <<< 8)))))))))

/-- R84: the definition that `crc16` implements, from the source's own parameters. -/
def crc16Direct (c : Config) (s : Bytes) : Word :=
  (s.foldl crcByteDirect 0xFFFF#16).reverse ^^^ c.crcXorOut.value

/-- R85: a frame with its checksum field at zero, for at least `HDR_LEN` bytes. DESIGN CHOICE, unsafe where it matters: of
fewer bytes, only those of offsets 4 and 5 that are there become zero (log entry 24). -/
def zeroCrcField (s : Bytes) : Bytes := (s.set 4 0#8).set 5 0#8

/-- R85, R86: `FrameCRC(s)`, over all bytes of the frame and no other. Of fewer than `HDR_LEN` bytes it
is the checksum of what is there (log entry 24). -/
def frameCrc (c : Config) (s : Bytes) : Word := crc16 c (zeroCrcField s)

/-- R71: a byte sequence is a valid frame. -/
def validFrame (c : Config) (s : Bytes) : Bool :=
  decide (8 ≤ s.length)
    && magicAt c.hm s 0
    && decide ((byteAt s 2).toNat ≤ c.maxPayload)
    && decide (s.length = frameLen (byteAt s 2))
    && magicAt c.tm s (trailerOffset (byteAt s 2))
    && field16 (byteAt s 4) (byteAt s 5) == frameCrc c s

/-- R87: the frame before its checksum is written, `f` of the pseudocode's first line. -/
def blankFrame (c : Config) (port : Byte) (payload : Bytes) : Bytes :=
  [c.hm.b0, c.hm.b1, BitVec.ofNat 8 payload.length, port, 0#8, 0#8] ++ payload ++ [c.tm.b0, c.tm.b1]

/-- R87: `Encode(port, payload)`; no result for a payload longer than `MAX_PAYLOAD`. -/
def encodeFrame (c : Config) (port : Byte) (payload : Bytes) : Option Bytes :=
  if payload.length ≤ c.maxPayload then
    some (((blankFrame c port payload).set 4 (lowByte (crc16 c (blankFrame c port payload)))).set 5
      (highByte (crc16 c (blankFrame c port payload))))
  else none

end Sys2Proof.Machine
end

