-- ==== Sys2Proof/Machine/Flags.lean ====
section
/-! DEFINITION. What a step's or an operation's "flags written" are made of: the counters and their one increment
(10_state.md R31 to R33), the codes of 10_state.md R26, 60_exceptions.md R118, R119 and 30_encoding.md R78, and the
`progress` result. The block has no condition codes and no status flags (R37). -/

namespace Sys2Proof.Machine

/-- R26: the numeric code of a receiver state. -/
def RxState.code : RxState → Nat
  | .searchingSync => 0
  | .awaitingHeader => 1
  | .awaitingBody => 2

/-- R31, R34: a counter's index. -/
def CtrName.index : CtrName → Nat
  | .rcvMsgs => 0
  | .rcvBytes => 1
  | .droppedBytes => 2
  | .crcErr => 3
  | .sizeErr => 4
  | .trailerErr => 5
  | .noReceiver => 6

/-- The value of a counter. -/
def Counters.get (x : Counters) : CtrName → Nat
  | .rcvMsgs => x.rcvMsgs
  | .rcvBytes => x.rcvBytes
  | .droppedBytes => x.droppedBytes
  | .crcErr => x.crcErr
  | .sizeErr => x.sizeErr
  | .trailerErr => x.trailerErr
  | .noReceiver => x.noReceiver

/-- R21: `ctr.X <- v`. -/
def Counters.set (x : Counters) (n : CtrName) (v : Nat) : Counters :=
  match n with
  | .rcvMsgs => { x with rcvMsgs := v }
  | .rcvBytes => { x with rcvBytes := v }
  | .droppedBytes => { x with droppedBytes := v }
  | .crcErr => { x with crcErr := v }
  | .sizeErr => { x with sizeErr := v }
  | .trailerErr => { x with trailerErr := v }
  | .noReceiver => { x with noReceiver := v }

/-- R21, R33: `ctr.X += k`, modulo `2 ^ CTR_W`. -/
def Counters.add (x : Counters) (c : Config) (n : CtrName) (k : Nat) : Counters :=
  x.set n ((x.get n + k) % 2 ^ c.ctrW)

/-- R119: the numeric code of a step outcome. -/
def StepOutcome.code : StepOutcome → Nat
  | .wait => 0
  | .syncHead => 1
  | .syncSkip => 2
  | .nosyncDrop => 3
  | .hdrOk => 4
  | .errSize => 5
  | .errTrailer => 6
  | .errCrc => 7
  | .frameDispatched => 8
  | .frameNoReceiver => 9

/-- R22, R119: the `progress` result that goes with an outcome. -/
def StepOutcome.progress : StepOutcome → Bool
  | .wait => false
  | .syncHead => true
  | .syncSkip => true
  | .nosyncDrop => true
  | .hdrOk => true
  | .errSize => true
  | .errTrailer => true
  | .errCrc => true
  | .frameDispatched => true
  | .frameNoReceiver => true

/-- R118: the numeric code of an error cause. -/
def Cause.code : Cause → Nat
  | .size => 1
  | .trailer => 2
  | .crc => 3
  | .noReceiver => 4
  | .dropped => 5
  | .io => 6
  | .illegal => 7

/-- R118: the counter that records a cause; the two response errors have none. -/
def Cause.counter? : Cause → Option CtrName
  | .size => some .sizeErr
  | .trailer => some .trailerErr
  | .crc => some .crcErr
  | .noReceiver => some .noReceiver
  | .dropped => some .droppedBytes
  | .io => none
  | .illegal => none

/-- R118: the response status of the two causes that end a host operation. -/
def Cause.status? : Cause → Option Status
  | .io => some .ioError
  | .illegal => some .illegal
  | .size | .trailer | .crc | .noReceiver | .dropped => none

/-- R78: the 2-bit code of a response status. -/
def Status.code : Status → BitVec 2
  | .ok => 0#2
  | .ioError => 1#2
  | .illegal => 2#2

end Sys2Proof.Machine
end

