-- ==== Sys2Proof/Machine/Ops.lean ====
section
/-! DEFINITION. The named operations over the state (00_scope.md R21): the buffer, the counters, recovery (the
trap-entry analogue of 60_exceptions.md R122), responses and the observation. Nothing returns from recovery, so
there is no return beside it. -/

namespace Sys2Proof.Machine

/-- R21: `BufDrop(n)`, defined for `n ≤ BufLen`. DESIGN CHOICE, unsafe where it matters: a longer drop empties the buffer
(log entry 14). -/
def Block.bufDrop (b : Block) (n : Nat) : Block := { b with buf := b.buf.drop n }

/-- R21: `BufAppend(s)`, defined for `BufLen + |s| ≤ BUF_CAP`. DESIGN CHOICE, unsafe where it matters: a longer append is
total and lets the buffer grow past `BUF_CAP`. No `PROCESS` makes one, since it reads at most the free space
(log entry 23). -/
def Block.bufAppend (b : Block) (s : Bytes) : Block := { b with buf := b.buf ++ s }

/-- R21: `ctr.X += k`. -/
def Block.count (b : Block) (c : Config) (n : CtrName) (k : Nat) : Block := { b with ctr := b.ctr.add c n k }

/-- R26: `st <- S`. -/
def Block.goto (b : Block) (st : RxState) : Block := { b with st := st }

/-- R96, R97: the header's fields are captured into the scratch registers. -/
def Block.captureHeader (b : Block) : Block :=
  { b with
    hSize := byteAt b.buf 2
    hPort := byteAt b.buf 3
    hCrc := field16 (byteAt b.buf 4) (byteAt b.buf 5) }

/-- R97: `f_len <- HDR_LEN + h_size + TRL_LEN`. -/
def Block.setFrameLen (b : Block) : Block := { b with fLen := BitVec.ofNat 9 (frameLen b.hSize) }

/-- R102: `Recover()`. -/
def Block.recover (b : Block) (c : Config) : Block :=
  ((b.count c .droppedBytes magicW).bufDrop magicW).goto .searchingSync

/-- R118: a cause is recorded in its counter, where it has one. -/
def Block.record (b : Block) (c : Config) (e : Cause) : Block :=
  match e.counter? with
  | some n => b.count c n 1
  | none => b

/-- R122: entry into recovery on a failed check: the cause is recorded, then `Recover()`. No state is saved. -/
def Block.takeError (b : Block) (c : Config) (e : Cause) : Block := (b.record c e).recover c

/-- R14, R107: `BUF_CAP - |buf|`. -/
def Block.freeSpace (b : Block) (c : Config) : Nat := c.bufCap - b.buf.length

/-- R78: the operation returns a response. -/
def State.respond (s : State) (status : Status) (data : Nat) : State :=
  { s with obs := { s.obs with responses := s.obs.responses ++ [{ status := status, data := data }] } }

/-- R107, R111, R114: `return (OK, 0)`. -/
def State.respondOk (s : State) : State := s.respond .ok 0

/-- R21, R123: `raise IoError`: the operation ends with `(IO_ERROR, 0)` and no block state changes. -/
def State.raiseIoError (s : State) : State := s.respond .ioError 0

/-- R115, R124: an illegal command returns `(ILLEGAL, 0)` and changes nothing. -/
def State.raiseIllegal (s : State) : State := s.respond .illegal 0

/-- R110: events join the dispatch output, in emission order; R104: the outcome codes join the trace. -/
def State.emit (s : State) (events : List Dispatch) (trace : List StepOutcome) : State :=
  { s with obs := { s.obs with events := s.obs.events ++ events, trace := s.obs.trace ++ trace } }

end Sys2Proof.Machine
end

