-- ==== Sys2Proof/Machine/Receiver.lean ====
section
/-! DEFINITION. The receiver state machine (41_receiver_fsm.md): the single step with its ten arms, and the drain
loop. -/

namespace Sys2Proof.Machine

/-- R22: what one step returns: its outcome, the block after it and the event it emitted, if any. -/
structure StepResult where
  outcome : StepOutcome
  block : Block
  event : Option Dispatch
deriving DecidableEq, Repr

/-- R22: the `progress` result. -/
def StepResult.progress (r : StepResult) : Bool := r.outcome.progress

/-- R92: the least offset at which the header magic stands, its whole window inside the sequence. -/
def findSync (m : Magic) : Bytes → Option Nat
  | [] => none
  | [_] => none
  | x :: y :: rest => if x = m.b0 ∧ y = m.b1 then some 0 else (findSync m (y :: rest)).map (· + 1)

/-- R94: how many bytes a scan that found no magic discards. -/
def nosyncCount (c : Config) (buf : Bytes) : Nat :=
  match c.syncTailRule with
  | .keepLast => buf.length - 1
  | .keepIfPrefix => if byteAt buf (buf.length - 1) = c.hm.b0 then buf.length - 1 else buf.length

/-- R91, R95, R98: no progress, nothing changes. -/
def stepWait (b : Block) : StepResult := { outcome := .wait, block := b, event := none }

/-- R93: the magic was found at offset `k`. -/
def stepSyncFound (c : Config) (b : Block) (k : Nat) : StepResult :=
  if 0 < k then
    { outcome := .syncSkip
      block := ((b.count c .droppedBytes k).bufDrop k).goto .awaitingHeader
      event := none }
  else { outcome := .syncHead, block := b.goto .awaitingHeader, event := none }

/-- R94: no magic in the buffer. -/
def stepNosync (c : Config) (b : Block) : StepResult :=
  { outcome := .nosyncDrop
    block := (b.count c .droppedBytes (nosyncCount c b.buf)).bufDrop (nosyncCount c b.buf)
    event := none }

/-- R91 to R94: the step in `SEARCHING_SYNC`, the hdlc_style_byte_scanner. -/
def stepSearching (c : Config) (b : Block) : StepResult :=
  if b.buf.length < magicW then stepWait b
  else
    match findSync c.hm b.buf with
    | some k => stepSyncFound c b k
    | none => stepNosync c b

/-- R96, R97: the step in `AWAITING_HEADER` once the header's fields are captured in `b`. -/
def stepHeaderCaptured (c : Config) (b : Block) : StepResult :=
  if c.maxPayload < b.hSize.toNat then
    { outcome := .errSize, block := b.takeError c .size, event := none }
  else { outcome := .hdrOk, block := b.setFrameLen.goto .awaitingBody, event := none }

/-- R95 to R97: the step in `AWAITING_HEADER`. -/
def stepHeader (c : Config) (b : Block) : StepResult :=
  if b.buf.length < hdrLen then stepWait b else stepHeaderCaptured c b.captureHeader

/-- R101: the counters of a validated frame. -/
def Block.countFrame (b : Block) (c : Config) : Block :=
  (b.count c .rcvMsgs 1).count c .rcvBytes b.fLen.toNat

/-- R101: a validated frame leaves the buffer. -/
def Block.consumeFrame (b : Block) : Block := (b.bufDrop b.fLen.toNat).goto .searchingSync

/-- R101: the frame is validated; its port is looked up and its payload emitted or discarded. -/
def stepAccept (c : Config) (b : Block) : StepResult :=
  if regBit b.reg b.hPort then
    { outcome := .frameDispatched
      block := (b.countFrame c).consumeFrame
      event := some { port := b.hPort, payload := payloadOf b.buf b.hSize } }
  else
    { outcome := .frameNoReceiver
      block := ((b.countFrame c).record c .noReceiver).consumeFrame
      event := none }

/-- R98 to R101: the step in `AWAITING_BODY`, the crc_validator_pipeline; the checks in the order of R121. -/
def stepBody (c : Config) (b : Block) : StepResult :=
  if b.buf.length < b.fLen.toNat then stepWait b
  else if magicAt c.tm b.buf (trailerOffset b.hSize) = false then
    { outcome := .errTrailer, block := b.takeError c .trailer, event := none }
  else if frameCrc c (b.buf.take b.fLen.toNat) ≠ b.hCrc then
    { outcome := .errCrc, block := b.takeError c .crc, event := none }
  else stepAccept c b

/-- R90: `step()`, one atomic transition of the receiver. -/
def rxStep (c : Config) (b : Block) : StepResult :=
  match b.st with
  | .searchingSync => stepSearching c b
  | .awaitingHeader => stepHeader c b
  | .awaitingBody => stepBody c b

/-- What a drain leaves: the block, the events it emitted and the outcome of every step, in order. -/
structure DrainResult where
  block : Block
  events : List Dispatch
  trace : List StepOutcome
deriving DecidableEq, Repr

/-- R104: one more step in front of the rest of a drain. -/
def DrainResult.after (d : DrainResult) (r : StepResult) : DrainResult :=
  { block := d.block, events := r.event.toList ++ d.events, trace := r.outcome :: d.trace }

/-- R104: `step` until it reports no progress, at most `n` steps. -/
def drainFuel (c : Config) : Nat → Block → DrainResult
  | 0, b => { block := b, events := [], trace := [] }
  | n + 1, b =>
    if (rxStep c b).progress then (drainFuel c n (rxStep c b).block).after (rxStep c b)
    else { block := (rxStep c b).block, events := [], trace := [(rxStep c b).outcome] }

/-- R105: more steps than any drain of `L` buffered bytes takes (log entry 15). -/
def drainBound (b : Block) : Nat := 3 * b.buf.length + 4

/-- R104: `Drain()`. -/
def drain (c : Config) (b : Block) : DrainResult := drainFuel c (drainBound b) b

end Sys2Proof.Machine
end

