-- ==== Sys2Proof/Machine/Transport.lean ====
section
/-! DEFINITION. The transport's two calls and the link's append (20_memory.md R49 to R52, 60_exceptions.md R123). The
block never calls `write` (R53). -/

namespace Sys2Proof.Machine

/-- The draws that the next `PROCESS` meets: the first one settled, or, where none is, those of R82. -/
def Transport.nextDraw (t : Transport) : Draw := t.draws.headD Draw.answering

/-- A `PROCESS` uses up its draws. -/
def Transport.useDraw (t : Transport) : Transport := { t with draws := t.draws.tail }

/-- The transport settles the draws of one more `PROCESS`. -/
def Transport.settle (t : Transport) (d : Draw) : Transport := { t with draws := t.draws ++ [d] }

/-- R52, R82: the transport settles that its next call fails. That call is the next `PROCESS`'s `bytes_available`, so
the draws of that `PROCESS`, and of no other, are amended (log entry 6). Settling it twice before the call is settling
it once. -/
def Transport.failNext (t : Transport) : Transport :=
  { t with draws := { t.nextDraw with availFails := true } :: t.draws.tail }

/-- R49: the link appends bytes to the tail of `T`. -/
def Transport.linkAppend (t : Transport) (s : Bytes) : Transport := { t with fifo := t.fifo ++ s }

/-- R50, R52: `bytes_available()`; `none` is a failed call. It has no side effect on `T`. -/
def Transport.bytesAvailable (t : Transport) (d : Draw) : Option Nat :=
  if d.availFails then none else some t.fifo.length

/-- R51: how many bytes leave `T` on `read(max_count)`, whether it answers or fails (R123: at most `max_count`). -/
def Transport.readCount (t : Transport) (d : Draw) (maxCount : Nat) : Nat :=
  match d.read with
  | .full => min maxCount t.fifo.length
  | .upTo j => min j (min maxCount t.fifo.length)
  | .fail lost => min lost (min maxCount t.fifo.length)

/-- R51, R52: the bytes `read(max_count)` returns; `none` is a failed call. -/
def Transport.readBytes (t : Transport) (d : Draw) (maxCount : Nat) : Option Bytes :=
  match d.read with
  | .fail _ => none
  | .full | .upTo _ => some (t.fifo.take (t.readCount d maxCount))

/-- R51, R123: the transport after `read(max_count)`. -/
def Transport.afterRead (t : Transport) (d : Draw) (maxCount : Nat) : Transport :=
  { t with fifo := t.fifo.drop (t.readCount d maxCount) }

end Sys2Proof.Machine
end

