-- ==== Sys2Proof/Machine/Process.lean ====
section
/-! DEFINITION. `PROCESS` (42_host_operations.md R107, R108). -/

namespace Sys2Proof.Machine

/-- R107: the drain of the operation, its events and its trace, and the response `(OK, 0)`. -/
def State.drainAndRespond (s : State) : State :=
  ({ s with block := (drain s.cfg s.block).block }.emit (drain s.cfg s.block).events
    (drain s.cfg s.block).trace).respondOk

/-- R107: `m := min(n, BUF_CAP - |buf|)`. -/
def State.readSize (s : State) (n : Nat) : Nat := min n (s.block.freeSpace s.cfg)

/-- R51, R107: `read(m)`, and `BufAppend` of what it returned, or `IO_ERROR`. -/
def State.processRead (s : State) (d : Draw) (m : Nat) : State :=
  match s.transport.readBytes d m with
  | none => { s with transport := s.transport.afterRead d m }.raiseIoError
  | some bytes =>
    State.drainAndRespond
      { s with transport := s.transport.afterRead d m, block := s.block.bufAppend bytes }

/-- R107: the operation once `bytes_available` has answered `n` and the link has appended what it appends before
the read (R57). -/
def State.processAvailable (s : State) (d : Draw) (n : Nat) : State :=
  if 0 < s.readSize n then s.processRead d (s.readSize n) else s.drainAndRespond

/-- R57: the transport between the two calls of a `PROCESS`: the draw is used up and the link's bytes are in. -/
def State.betweenCalls (s : State) (d : Draw) : State :=
  { s with transport := s.transport.useDraw.linkAppend d.arrivals }

/-- R107: `PROCESS`, with the transport's draws for it. -/
def processWith (d : Draw) (s : State) : State :=
  match s.transport.bytesAvailable d with
  | none => (s.betweenCalls d).raiseIoError
  | some n => (s.betweenCalls d).processAvailable d n

/-- R107: `PROCESS`. -/
def execProcess (s : State) : Host.Outcome State Fault Refusal :=
  .next (processWith s.transport.nextDraw s)

end Sys2Proof.Machine
end

