-- ==== Sys2Proof/Machine/Registry.lean ====
section
/-! DEFINITION. `REGISTER` (42_host_operations.md R111). -/

namespace Sys2Proof.Machine

/-- R111: `reg[p] <- 1; return (OK, 0)`. No step runs. -/
def execRegister (p : Byte) (s : State) : Host.Outcome State Fault Refusal :=
  .next ({ s with block := { s.block with reg := regSet s.block.reg p } }.respondOk)

end Sys2Proof.Machine
end

