-- ==== Sys2Proof/Machine/Stats.lean ====
section
/-! DEFINITION. `STATS_READ` and `STATS_CLEAR` (42_host_operations.md R112, R114). -/

namespace Sys2Proof.Machine

/-- R112: `return (OK, ctr[i])`. The decoder gives no index of 7 or more (R77); on such a term, which no word stands
for, the answer is R115's. -/
def execStatsRead (i : Byte) (s : State) : Host.Outcome State Fault Refusal :=
  match counterOf i with
  | some n => .next (s.respond .ok (s.block.ctr.get n))
  | none => .next s.raiseIllegal

/-- R114: every counter to zero; `return (OK, 0)`. Nothing else changes and no step runs. -/
def execStatsClear (s : State) : Host.Outcome State Fault Refusal :=
  .next ({ s with block := { s.block with ctr := Counters.zero } }.respondOk)

end Sys2Proof.Machine
end

