-- ==== Sys2Proof/Machine/Dispatch.lean ====
section
/-! DEFINITION. One arm for each instruction (30_encoding.md R75). -/

namespace Sys2Proof.Machine

def exec (i : Instr) (s : State) : Host.Outcome State Fault Refusal :=
  match i with
  | .process => Sys2Proof.Machine.execProcess s
  | .register p => Sys2Proof.Machine.execRegister p s
  | .statsRead i' => Sys2Proof.Machine.execStatsRead i' s
  | .statsClear => Sys2Proof.Machine.execStatsClear s

end Sys2Proof.Machine
end

