-- ==== Sys2Proof/Machine/Agents.lean ====
section
/-! DEFINITION. The moves of the agents (00_scope.md R3) and the reset event (70_reset_and_hazards.md R135). -/

namespace Sys2Proof.Machine

/-- R73, R79, R115: the host issues a command word; an illegal one returns `(ILLEGAL, 0)` and changes nothing. -/
def hostCommand (w : Word) (s : State) : Host.Outcome State Fault Refusal :=
  match decode w with
  | .ok i => exec i s
  | .error _ => .next s.raiseIllegal

/-- R49: the link appends bytes to the transport FIFO. -/
def linkMove (bytes : Bytes) (s : State) : State :=
  { s with transport := s.transport.linkAppend bytes }

/-- R51, R52: the transport settles the draws of one more `PROCESS`. -/
def transportMove (d : Draw) (s : State) : State :=
  { s with transport := s.transport.settle d }

/-- R52, R82: the transport settles that its next call fails. -/
def failNextMove (s : State) : State := { s with transport := s.transport.failNext }

/-- R135: the whole block state takes its reset value; no event is emitted and `T` is not touched. -/
def resetMove (s : State) : State := { s with block := Block.reset }

/-- One agent moves. -/
def performMove (m : Move) (s : State) : Host.Outcome State Fault Refusal :=
  match m with
  | .link bytes => .next (linkMove bytes s)
  | .transport d => .next (transportMove d s)
  | .failNext => .next (failNextMove s)
  | .host w => hostCommand w s
  | .reset => .next (resetMove s)

/-- The state once its first move has been taken from the list. -/
def State.takeMove (s : State) : State := { s with moves := s.moves.tail }

/-- R73: the host's next command word. -/
def State.issue (s : State) (w : Word) : State := { s with moves := .host w :: s.moves }

end Sys2Proof.Machine
end

