-- ==== Sys2Proof/Machine/Step.lean ====
section
/-! DEFINITION. One step of the machine: the first agent in line moves. -/

namespace Sys2Proof.Machine

/-- One step. With no move to come, the block idles and nothing changes (60_exceptions.md R132; log entry 13). -/
def step (s : State) : Host.Outcome State Fault Refusal :=
  match s.moves with
  | [] => .next s
  | m :: _ => performMove m s.takeMove

/-- The state whose next step is the host issuing the given word. -/
def State.withFetchWord (s : State) (nbits w : Nat) : State :=
  s.issue (BitVec.ofNat 16 (w % 2 ^ nbits))

end Sys2Proof.Machine
end

