-- ==== Sys2Proof/Machine/Asm.lean ====
section
/-! DEFINITION. Host programs (30_encoding.md R80 to R82): their lines, what each line makes the agents do, and the
assembler that reads them from text. Log entry 16 says which conventions of the text the spec leaves open. -/

namespace Sys2Proof.Machine

/-- R80 to R82: a line of a host program. -/
inductive HostLine where
  /-- R80. -/
  | process
  /-- R80. -/
  | register (p : Byte)
  /-- R80. -/
  | statsRead (i : Byte)
  /-- R80. -/
  | statsClear
  /-- R81. -/
  | statsReadAll
  /-- R81. -/
  | registerRange (a b : Byte)
  /-- R82: `.link`. -/
  | link (bytes : Bytes)
  /-- R82: `.fail`. -/
  | fail
  /-- R82: `.reset`. -/
  | reset
  /-- R82: `.word`. -/
  | word (w : Word)
deriving DecidableEq, Repr

/-- R81: `REGISTER a`, `REGISTER a+1`, ..., `REGISTER b`, for `a ≤ b`. DESIGN CHOICE: for `a > b`, where the rule gives no
expansion, the list is empty; the text of such a line is rejected (log entry 16). -/
def registerRangeInstrs (a b : Byte) : List Instr :=
  (List.range' a.toNat (b.toNat + 1 - a.toNat)).map fun p => .register (BitVec.ofNat 8 p)

/-- R81: `STATS_READ 0` through `STATS_READ 6`. -/
def statsReadAllInstrs : List Instr :=
  (List.range 7).map fun i => .statsRead (BitVec.ofNat 8 i)

/-- R80, R81: the commands a line stands for; a directive stands for none. -/
def HostLine.instrs : HostLine → List Instr
  | .process => [.process]
  | .register p => [.register p]
  | .statsRead i => [.statsRead i]
  | .statsClear => [.statsClear]
  | .statsReadAll => statsReadAllInstrs
  | .registerRange a b => registerRangeInstrs a b
  | .link _ | .fail | .reset | .word _ => []

/-- R80 to R82: what a line makes the agents do. -/
def HostLine.moves : HostLine → List Move
  | .link bytes => [.link bytes]
  | .fail => [.failNext]
  | .reset => [.reset]
  | .word w => [.host w]
  | l => l.instrs.map fun i => .host (encode i)

/-- A text, as its characters. -/
abbrev Chars := List Char

/-- Cuts a text at every separator. -/
def splitAtChar (sep : Char) (cs : Chars) : List Chars :=
  cs.foldr
    (fun ch acc =>
      if ch = sep then [] :: acc
      else
        match acc with
        | [] => [[ch]]
        | t :: ts => (ch :: t) :: ts)
    [[]]

/-- R80: `;` starts a comment. -/
def dropComment (cs : Chars) : Chars := cs.takeWhile (· ≠ ';')

/-- The tokens of a line: blanks separate them, and a comma is a token of its own. -/
def tokens (cs : Chars) : List Chars :=
  ((dropComment cs).foldr
    (fun ch acc =>
      if ch = ' ' ∨ ch = '\t' ∨ ch = '\r' then [] :: acc
      else if ch = ',' then [] :: [','] :: acc
      else
        match acc with
        | [] => [[ch]]
        | t :: ts => (ch :: t) :: ts)
    [[]]).filter (· ≠ [])

/-- The value of a digit in bases up to 16. -/
def digitValue (ch : Char) : Option Nat :=
  if '0' ≤ ch ∧ ch ≤ '9' then some (ch.toNat - 48)
  else if 'a' ≤ ch ∧ ch ≤ 'f' then some (ch.toNat - 87)
  else if 'A' ≤ ch ∧ ch ≤ 'F' then some (ch.toNat - 55)
  else none

/-- The number that the digits write after `acc`, in the given base. -/
def digitsFrom (base : Nat) : Nat → Chars → Option Nat
  | acc, [] => some acc
  | acc, ch :: cs =>
    match digitValue ch with
    | some d => if d < base then digitsFrom base (acc * base + d) cs else none
    | none => none

/-- A number in the given base, of at least one digit. -/
def parseDigits (base : Nat) (cs : Chars) : Option Nat :=
  if cs = [] then none else digitsFrom base 0 cs

/-- R80: a decimal or `0x` hexadecimal number. -/
def parseNumber : Chars → Option Nat
  | '0' :: 'x' :: cs => parseDigits 16 cs
  | cs => parseDigits 10 cs

/-- R80: a port, 0 to 255. -/
def parsePort (cs : Chars) : Option Byte :=
  match parseNumber cs with
  | some n => if n ≤ 255 then some (BitVec.ofNat 8 n) else none
  | none => none

/-- R31, R80: a counter's name. -/
def counterOfName (cs : Chars) : Option Byte :=
  if cs = "rcv_msgs".toList then some 0#8
  else if cs = "rcv_bytes".toList then some 1#8
  else if cs = "dropped_bytes".toList then some 2#8
  else if cs = "crc_err".toList then some 3#8
  else if cs = "size_err".toList then some 4#8
  else if cs = "trailer_err".toList then some 5#8
  else if cs = "no_receiver".toList then some 6#8
  else none

/-- R80: a counter, by name or by an index 0 to 6. DESIGN CHOICE: the rule gives no number base for the index, and it is
read as a port is, in decimal or in `0x` hexadecimal (log entry 16). -/
def parseCounter (cs : Chars) : Option Byte :=
  match counterOfName cs with
  | some i => some i
  | none =>
    match parseNumber cs with
    | some n => if n ≤ 6 then some (BitVec.ofNat 8 n) else none
    | none => none

/-- R82: a byte of `.link`, two hexadecimal digits. -/
def parseHexByte (cs : Chars) : Option Byte :=
  if cs.length = 2 then (parseDigits 16 cs).map (BitVec.ofNat 8) else none

/-- 95_test_vectors.md, Program 4: `00 x 54` abbreviates 54 bytes of `00`. -/
def parseRepeat (b n : Chars) : Option Bytes :=
  match parseHexByte b, parseDigits 10 n with
  | some x, some k => some (List.replicate k x)
  | _, _ => none

/-- R82: the bytes of `.link`, one after another. DESIGN CHOICE: R82 gives no abbreviation and Program 4 of
95_test_vectors.md uses one, so a line that is one byte, `x` and a decimal count is read as that many of the byte; a list
of bytes with a repeat among them is no line of the syntax (log entry 16). -/
def parseLinkBytes (args : List Chars) : Option Bytes :=
  match args with
  | [b, x, n] => if x = ['x'] then parseRepeat b n else args.mapM parseHexByte
  | _ => args.mapM parseHexByte

/-- R82: a 16-bit word, hexadecimal, with or without `0x`. -/
def parseWord (cs : Chars) : Option Word :=
  match parseDigits 16 (if cs.take 2 = ['0', 'x'] then cs.drop 2 else cs) with
  | some n => if n ≤ 0xFFFF then some (BitVec.ofNat 16 n) else none
  | none => none

/-- R81: `REGISTER_RANGE a, b` with `a ≤ b`. -/
def parseRange (a b : Chars) : Option HostLine :=
  match parsePort a, parsePort b with
  | some x, some y => if x.toNat ≤ y.toNat then some (.registerRange x y) else none
  | _, _ => none

/-- R80 to R82: a line's tokens. Mnemonics are upper case. -/
def parseTokens : List Chars → Option HostLine
  | [] => none
  | m :: args =>
    if m = ".link".toList then (parseLinkBytes args).map .link
    else
      match args with
      | [] =>
        if m = "PROCESS".toList then some .process
        else if m = "STATS_CLEAR".toList then some .statsClear
        else if m = "STATS_READ_ALL".toList then some .statsReadAll
        else if m = ".fail".toList then some .fail
        else if m = ".reset".toList then some .reset
        else none
      | [x] =>
        if m = "REGISTER".toList then (parsePort x).map .register
        else if m = "STATS_READ".toList then (parseCounter x).map .statsRead
        else if m = ".word".toList then (parseWord x).map .word
        else none
      | [x, comma, y] =>
        if m = "REGISTER_RANGE".toList ∧ comma = [','] then parseRange x y else none
      | _ => none

/-- A line of text: nothing on it, a line of the program, or (`none`) no line of the syntax. -/
def parseLine (cs : Chars) : Option (List HostLine) :=
  if tokens cs = [] then some [] else (parseTokens (tokens cs)).map ([·])

/-- R80: a host program's text, one command or directive a line; `none` where a line is not of the syntax. -/
def parseProgram (text : Chars) : Option (List HostLine) :=
  ((splitAtChar '\n' text).mapM parseLine).map List.flatten

/-- R80 to R82: the moves that a host program makes the agents take, in order. -/
def assemble (text : Chars) : Option (List Move) :=
  (parseProgram text).map fun ls => ls.flatMap HostLine.moves

end Sys2Proof.Machine
end

