-- ==== Sys2Proof/Safety.lean ====
section
/-! DEFINITION. The terms the claims use: the invariants of 10_state.md R39, the rest states of R40, bounded
counters, and illegal words as R77 lists them. -/

namespace Sys2Proof.Machine

/-- R39 (I1): outside `SEARCHING_SYNC` the buffer begins with the header magic. -/
abbrev Block.HeadInv (b : Block) (c : Config) : Prop :=
  b.st ≠ .searchingSync → magicW ≤ b.buf.length ∧ b.buf[0]? = some c.hm.b0 ∧ b.buf[1]? = some c.hm.b1

/-- R39 (I2): in `AWAITING_BODY` the scratch registers hold the header at the buffer's head. -/
abbrev Block.BodyInv (b : Block) (c : Config) : Prop :=
  b.st = .awaitingBody →
    hdrLen ≤ b.buf.length ∧ b.buf[2]? = some b.hSize ∧ b.hSize.toNat ≤ c.maxPayload ∧
      b.buf[3]? = some b.hPort ∧ b.hCrc = field16 (b.buf.getD 4 0#8) (b.buf.getD 5 0#8) ∧
      b.fLen.toNat = hdrLen + b.hSize.toNat + trlLen

/-- R39: the three invariants of the block. -/
abbrev Block.Inv (b : Block) (c : Config) : Prop :=
  b.HeadInv c ∧ b.BodyInv c ∧ b.buf.length ≤ c.bufCap

/-- R24: a state in which `step` returns `progress = false`. -/
abbrev Block.AtFixpoint (b : Block) (c : Config) : Prop := (rxStep c b).progress = false

/-- R40: how many bytes are buffered between two operations. -/
abbrev Block.RestBounds (b : Block) : Prop :=
  (b.st = .searchingSync → b.buf.length ≤ magicW - 1) ∧
    (b.st = .awaitingHeader → magicW ≤ b.buf.length ∧ b.buf.length ≤ hdrLen - 1) ∧
    (b.st = .awaitingBody → hdrLen ≤ b.buf.length ∧ b.buf.length ≤ b.fLen.toNat - 1)

/-- R33: every counter is a `CTR_W`-bit value. -/
abbrev Counters.Bounded (x : Counters) (c : Config) : Prop :=
  x.rcvMsgs < 2 ^ c.ctrW ∧ x.rcvBytes < 2 ^ c.ctrW ∧ x.droppedBytes < 2 ^ c.ctrW ∧ x.crcErr < 2 ^ c.ctrW ∧
    x.sizeErr < 2 ^ c.ctrW ∧ x.trailerErr < 2 ^ c.ctrW ∧ x.noReceiver < 2 ^ c.ctrW

/-- R78: the data of a response is a `CTR_W`-bit value, and 0 unless the status is `OK`. -/
abbrev Response.Fits (r : Response) (c : Config) : Prop := r.data < 2 ^ c.ctrW ∧ (r.status ≠ .ok → r.data = 0)

/-- What holds of the machine between two moves: the block's invariants (R39), rest (R40), counters of their width
(R33), no event with a payload above `MAX_PAYLOAD` (R110), and responses of the format of R78. -/
abbrev State.Inv (s : State) : Prop :=
  s.block.Inv s.cfg ∧ s.block.AtFixpoint s.cfg ∧ s.block.ctr.Bounded s.cfg ∧
    (∀ e ∈ s.obs.events, e.payload.length ≤ s.cfg.maxPayload) ∧ ∀ r ∈ s.obs.responses, r.Fits s.cfg

/-- R77: the illegal command words, as the rule lists them. -/
abbrev IllegalWord (w : Word) : Prop :=
  (w.toNat % 16 = 0 ∨ 5 ≤ w.toNat % 16) ∨
    w.toNat / 16 % 16 ≠ 0 ∨
    ((w.toNat % 16 = 1 ∨ w.toNat % 16 = 4) ∧ w.toNat / 256 ≠ 0) ∨
    (w.toNat % 16 = 3 ∧ 7 ≤ w.toNat / 256)

/-- The magic stands at offset `i` of `s`, its window inside `s` (R92). -/
abbrev MagicStands (m : Magic) (s : Bytes) (i : Nat) : Prop :=
  s[i]? = some m.b0 ∧ s[i + 1]? = some m.b1

/-- R33, R21: a counter value after `+= k`. -/
abbrev wrapAdd (c : Config) (v k : Nat) : Nat := (v + k) % 2 ^ c.ctrW

/-- R107: `m := min(n, BUF_CAP - |buf|)` with `n = |T|`. -/
abbrev State.readRequest (s : State) : Nat := min s.transport.fifo.length (s.cfg.bufCap - s.block.buf.length)

/-- R51: how many bytes an answering `read(m)` returns when `m` bytes are there. -/
abbrev ReadDraw.answerLength (r : ReadDraw) (m : Nat) : Nat :=
  match r with
  | .full => m
  | .upTo j => min j m
  | .fail _ => 0

/-- R52: `read` answers. -/
def ReadDraw.answers (r : ReadDraw) : Bool :=
  match r with
  | .full => true
  | .upTo _ => true
  | .fail _ => false

/-- R119: an outcome, without the difference between a dispatched frame and one that found no receiver. -/
abbrev StepOutcome.framing (o : StepOutcome) : StepOutcome :=
  if o = .frameNoReceiver then .frameDispatched else o

end Sys2Proof.Machine
end

