-- ==== Sys2Proof/Certificates/Slice0/Obligations.lean ====
section
/-! DEFINITION. The statements for the provers. -/

open Sys2Proof Sys2Proof.Machine

/-! ## The command word -/

/-- 30_encoding.md R75, R79: the words that decode to an instruction are exactly the encodings of the well-formed
instructions, each its own. -/
def Obligations.DecodingInvertsEncoding : Prop :=
  ∀ (w : Word) (i : Instr), decode w = .ok i ↔ i.wf = true ∧ encode i = w

/-- R77, R115, R124: the illegal words are those R77 lists; each returns `(ILLEGAL, 0)` and changes nothing else. -/
def Obligations.IllegalWordsAnswerIllegal : Prop :=
  ∀ w : Word,
    ((∃ e, decode w = .error e) ↔ IllegalWord w) ∧
      ∀ (s : State) (rest : List Move), IllegalWord w → s.moves = .host w :: rest →
        step s = .next
          { s with
            moves := rest
            obs := { s.obs with responses := s.obs.responses ++ [⟨.illegal, 0⟩] } }

/-- R75: words written out from the table of operation codes. -/
def Obligations.TableWordsDecode : Prop :=
  decode 0x0001#16 = .ok .process ∧
    decode 0x0702#16 = .ok (.register 7#8) ∧
    decode 0xFF02#16 = .ok (.register 255#8) ∧
    decode 0x0003#16 = .ok (.statsRead 0#8) ∧
    decode 0x0603#16 = .ok (.statsRead 6#8) ∧
    decode 0x0004#16 = .ok .statsClear

/-- R81: `STATS_READ_ALL` stands for `STATS_READ 0` to `STATS_READ 6`, and `REGISTER_RANGE a, b` with `a ≤ b` for
`REGISTER a` to `REGISTER b`, in that order. -/
def Obligations.PseudoInstructionsExpand : Prop :=
  HostLine.statsReadAll.moves =
      [.host 0x0003#16, .host 0x0103#16, .host 0x0203#16, .host 0x0303#16, .host 0x0403#16, .host 0x0503#16,
        .host 0x0603#16] ∧
    ∀ a b : Byte, a.toNat ≤ b.toNat →
      (HostLine.registerRange a b).moves.length = b.toNat - a.toNat + 1 ∧
        ∀ k, k ≤ b.toNat - a.toNat →
          (HostLine.registerRange a b).moves[k]? = some (.host (BitVec.ofNat 16 ((a.toNat + k) * 256 + 2)))

/-! ## Steps of the machine -/

/-- R73, R79: a step whose move is a host word runs the instruction the word decodes to, and takes the move off the
list; nothing else is added. -/
def Obligations.StepRunsDecodedInstruction : Prop :=
  (∀ (s : State) (w : Word) (rest : List Move) (i : Instr), s.moves = .host w :: rest → decode w = .ok i →
      step s = exec i { s with moves := rest }) ∧
    ∀ (s : State) (i : Instr), i.wf = true → step (s.withFetchWord 16 (encode i).toNat) = exec i s

/-- R120, R133: every step answers a next state, whatever the state and whatever the move: no fault and no refusal. -/
def Obligations.EveryStepAnswersNext : Prop :=
  ∀ s : State, ∃ t, step s = .next t

/-- R132 (the model's idling, log entry 13): with no move to come, nothing changes. -/
def Obligations.IdleStepChangesNothing : Prop :=
  ∀ s : State, s.moves = [] → step s = .next s

/-- R49, R82 and log entry 6: the link's move appends to `T`, the transport's adds its draws or makes the next `PROCESS`'s
`bytes_available` a failing one; nothing else changes. -/
def Obligations.EnvironmentMovesTouchOnlyTransport : Prop :=
  (∀ (s : State) (bytes : Bytes) (rest : List Move), s.moves = .link bytes :: rest →
      step s = .next
        { s with moves := rest, transport := { s.transport with fifo := s.transport.fifo ++ bytes } }) ∧
    (∀ (s : State) (d : Draw) (rest : List Move), s.moves = .transport d :: rest →
      step s = .next
        { s with moves := rest, transport := { s.transport with draws := s.transport.draws ++ [d] } }) ∧
    ∀ (s : State) (rest : List Move), s.moves = .failNext :: rest →
      step s = .next
        { s with
          moves := rest
          transport :=
            { s.transport with
              draws := { s.transport.nextDraw with availFails := true } :: s.transport.draws.tail } }

/-- R135: a reset puts every piece of block state to its reset value, emits nothing and leaves `T` alone; after it the
block is at a fixpoint. -/
def Obligations.ResetRestoresBlock : Prop :=
  ∀ (s : State) (rest : List Move), s.moves = .reset :: rest → Block.reset.AtFixpoint s.cfg ∧
    step s = .next
      { s with
        moves := rest
        block :=
          { st := .searchingSync, buf := [], hSize := 0#8, hPort := 0#8, hCrc := 0#16, fLen := 0#9
            ctr :=
              { rcvMsgs := 0, rcvBytes := 0, droppedBytes := 0, crcErr := 0, sizeErr := 0, trailerErr := 0
                noReceiver := 0 }
            reg := 0#256 } }

/-- R138 and log entry 1: a configuration is refused exactly when it breaks one of the four conditions; otherwise
the block is made, in its reset state. -/
def Obligations.BadConfigurationsAreRefused : Prop :=
  ∀ p : Params,
    (p.hm ≠ p.tm ∧ p.maxPayload ≤ 255 ∧ 6 + p.maxPayload + 2 ≤ p.bufCap ∧ 1 ≤ p.ctrW →
        ∃ c : Config, c.toParams = p ∧ State.instantiate p = .next (State.resetWith c)) ∧
      (¬ (p.hm ≠ p.tm ∧ p.maxPayload ≤ 255 ∧ 6 + p.maxPayload + 2 ≤ p.bufCap ∧ 1 ≤ p.ctrW) →
        State.instantiate p = .refused .badConfiguration)

/-! ## The four operations -/

/-- R111: `REGISTER p`, whose word is `(p << 8) | 0x0002`, sets `reg[p]`, returns `(OK, 0)` and changes nothing
else. -/
def Obligations.RegisterSetsOnlyItsPort : Prop :=
  ∀ (p : Byte) (s : State), (encode (.register p)).toNat = p.toNat * 256 + 2 ∧ ∃ reg : BitVec 256,
    (∀ q : Byte, reg.getLsbD q.toNat = (decide (q = p) || s.block.reg.getLsbD q.toNat)) ∧
      exec (.register p) s = .next
        { s with
          block := { s.block with reg := reg }
          obs := { s.obs with responses := s.obs.responses ++ [⟨.ok, 0⟩] } }

/-- R112, R31: `STATS_READ i`, whose word is `(i << 8) | 0x0003`, returns for `i` from 0 to 6 the counter of that
index and changes nothing; with an index of 7 or more the word is illegal. -/
def Obligations.StatsReadReturnsCounter : Prop :=
  ∀ (i : Byte) (s : State),
    (encode (.statsRead i)).toNat = i.toNat * 256 + 3 ∧
      (∀ v : Nat,
        [s.block.ctr.rcvMsgs, s.block.ctr.rcvBytes, s.block.ctr.droppedBytes, s.block.ctr.crcErr,
            s.block.ctr.sizeErr, s.block.ctr.trailerErr, s.block.ctr.noReceiver][i.toNat]? = some v →
          exec (.statsRead i) s = .next
            { s with obs := { s.obs with responses := s.obs.responses ++ [⟨.ok, v⟩] } }) ∧
      (i.toNat < 7 → decode (encode (.statsRead i)) = .ok (.statsRead i)) ∧
      (7 ≤ i.toNat → ∃ e, decode (encode (.statsRead i)) = .error e)

/-- Log entries 8 and 18 (the model's choices): the term `STATS_READ i` with a reserved index, which no word stands for,
answers as R115 has an illegal word answer, and the decoder's name for its word is `reservedIndex`. -/
def Obligations.StatsReadReservedIndexIsIllegal : Prop :=
  ∀ (i : Byte) (s : State), 7 ≤ i.toNat →
    exec (.statsRead i) s = .next
        { s with obs := { s.obs with responses := s.obs.responses ++ [⟨.illegal, 0⟩] } } ∧
      decode (encode (.statsRead i)) = .error .reservedIndex

/-- R114: `STATS_CLEAR`, whose word is `0x0004`, sets the seven counters to 0, returns `(OK, 0)` and changes nothing
else. -/
def Obligations.StatsClearZeroesOnlyCounters : Prop :=
  ∀ s : State, encode .statsClear = 0x0004#16 ∧
    exec .statsClear s = .next
      { s with
        block :=
          { s.block with
            ctr :=
              { rcvMsgs := 0, rcvBytes := 0, droppedBytes := 0, crcErr := 0, sizeErr := 0, trailerErr := 0
                noReceiver := 0 } }
        obs := { s.obs with responses := s.obs.responses ++ [⟨.ok, 0⟩] } }

/-- R107: a `PROCESS` whose transport answers reads `k` bytes, `k` as the draw says and at most `m`, appends them,
drains, emits the drain's events and returns `(OK, 0)`. The bytes not read stay in `T`, behind them what the link
appended meanwhile (R57; log entry 9, DEDUCED), and the `PROCESS` uses one draw up (log entry 6, DESIGN CHOICE). Nothing
else changes. -/
def Obligations.ProcessReadsAppendsAndDrains : Prop :=
  ∀ s : State, s.transport.nextDraw.availFails = false → s.transport.nextDraw.read.answers = true →
    let k := s.transport.nextDraw.read.answerLength s.readRequest
    let d := drain s.cfg { s.block with buf := s.block.buf ++ s.transport.fifo.take k }
    exec .process s = .next
      { s with
        block := d.block
        transport :=
          { fifo := s.transport.fifo.drop k ++ s.transport.nextDraw.arrivals
            draws := s.transport.draws.tail }
        obs :=
          { responses := s.obs.responses ++ [⟨.ok, 0⟩]
            events := s.obs.events ++ d.events
            trace := s.obs.trace ++ d.trace } }

/-- R107: where nothing is available to read, `read` is not called: its draw does not matter. That the link's arrivals
join `T` all the same is log entry 9 (DEDUCED), and that the `PROCESS` uses one draw up although it makes one call only is
log entry 6 (DESIGN CHOICE). -/
def Obligations.ProcessWithoutRoomOrBytesDoesNotRead : Prop :=
  ∀ s : State, s.transport.nextDraw.availFails = false → s.readRequest = 0 →
    exec .process s = .next
      { s with
        block := (drain s.cfg s.block).block
        transport :=
          { fifo := s.transport.fifo ++ s.transport.nextDraw.arrivals, draws := s.transport.draws.tail }
        obs :=
          { responses := s.obs.responses ++ [⟨.ok, 0⟩]
            events := s.obs.events ++ (drain s.cfg s.block).events
            trace := s.obs.trace ++ (drain s.cfg s.block).trace } }

/-- R123: a `PROCESS` whose transport fails returns `(IO_ERROR, 0)`; no block state changes, no step runs and no
event is emitted. A failed `bytes_available` takes nothing from `T`; a failed `read` loses at most `m` bytes from
its head. That the link's arrivals join behind the rest, also after a failed call, is log entry 9 (DEDUCED), and that the
`PROCESS` uses one draw up is log entry 6 (DESIGN CHOICE). -/
def Obligations.FailedTransportLeavesBlock : Prop :=
  (∀ s : State, s.transport.nextDraw.availFails = true →
      exec .process s = .next
        { s with
          transport :=
            { fifo := s.transport.fifo ++ s.transport.nextDraw.arrivals, draws := s.transport.draws.tail }
          obs := { s.obs with responses := s.obs.responses ++ [⟨.ioError, 0⟩] } }) ∧
    ∀ (s : State) (lost : Nat), s.transport.nextDraw.availFails = false →
      s.transport.nextDraw.read = .fail lost → 0 < s.readRequest →
      exec .process s = .next
        { s with
          transport :=
            { fifo :=
                s.transport.fifo.drop (min lost s.readRequest) ++ s.transport.nextDraw.arrivals
              draws := s.transport.draws.tail }
          obs := { s.obs with responses := s.obs.responses ++ [⟨.ioError, 0⟩] } }

/-- R107 (a corner case the spec marks derived: "nothing changes"): a `PROCESS` that gets no byte, because there is none to
ask for or because the read returns none, leaves a block at rest as it is: one `WAIT` step, no event, no byte taken. The
link's arrivals are log entry 9 (DEDUCED), the draw used up is log entry 6 (DESIGN CHOICE). -/
def Obligations.ProcessWithNoNewBytesChangesNothing : Prop :=
  ∀ s : State, s.block.AtFixpoint s.cfg → s.transport.nextDraw.availFails = false →
    (s.readRequest = 0 ∨
        s.transport.nextDraw.read.answers = true ∧ s.transport.nextDraw.read.answerLength s.readRequest = 0) →
      exec .process s = .next
        { s with
          transport :=
            { fifo := s.transport.fifo ++ s.transport.nextDraw.arrivals, draws := s.transport.draws.tail }
          obs :=
            { s.obs with
              responses := s.obs.responses ++ [⟨.ok, 0⟩]
              trace := s.obs.trace ++ [.wait] } }

/-! ## The receiver step, arm by arm -/

/-- R91, R95, R98: with too few bytes buffered, the step reports no progress and changes nothing. -/
def Obligations.ShortBufferWaits : Prop :=
  ∀ (c : Config) (b : Block),
    (b.st = .searchingSync ∧ b.buf.length < 2) ∨ (b.st = .awaitingHeader ∧ b.buf.length < 6) ∨
        (b.st = .awaitingBody ∧ b.buf.length < b.fLen.toNat) →
      rxStep c b = { outcome := .wait, block := b, event := none }

/-- R92, R93: the scanner moves to `AWAITING_HEADER` at the least offset where the header magic stands, and drops
and counts the bytes before it. -/
def Obligations.ScannerStopsAtFirstMagic : Prop :=
  ∀ (c : Config) (b : Block) (k : Nat), b.st = .searchingSync → MagicStands c.hm b.buf k →
    (∀ i < k, ¬ MagicStands c.hm b.buf i) →
      (k = 0 → rxStep c b =
        { outcome := .syncHead, block := { b with st := .awaitingHeader }, event := none }) ∧
      (0 < k → rxStep c b =
        { outcome := .syncSkip
          block :=
            { b with
              st := .awaitingHeader
              buf := b.buf.drop k
              ctr := { b.ctr with droppedBytes := wrapAdd c b.ctr.droppedBytes k } }
          event := none })

/-- R94: where the header magic stands nowhere, the scanner drops and counts all bytes but the last, or all of them
under `keep_if_prefix` when the last one cannot begin a magic. -/
def Obligations.ScannerDropsWithoutMagic : Prop :=
  ∀ (c : Config) (b : Block) (s : Bytes) (x : Byte), b.st = .searchingSync → b.buf = s ++ [x] → s ≠ [] →
    (∀ i, ¬ MagicStands c.hm b.buf i) →
      (c.syncTailRule = .keepLast ∨ x = c.hm.b0 → rxStep c b =
        { outcome := .nosyncDrop
          block :=
            { b with
              buf := [x]
              ctr := { b.ctr with droppedBytes := wrapAdd c b.ctr.droppedBytes s.length } }
          event := none }) ∧
      (c.syncTailRule = .keepIfPrefix ∧ x ≠ c.hm.b0 → rxStep c b =
        { outcome := .nosyncDrop
          block :=
            { b with
              buf := []
              ctr := { b.ctr with droppedBytes := wrapAdd c b.ctr.droppedBytes (s.length + 1) } }
          event := none })

/-- R96: a declared size above `MAX_PAYLOAD` is counted and recovered from. -/
def Obligations.OversizedHeaderRecovers : Prop :=
  ∀ (c : Config) (b : Block) (m0 m1 size port lo hi : Byte) (rest : Bytes),
    b.st = .awaitingHeader → b.buf = [m0, m1, size, port, lo, hi] ++ rest → c.maxPayload < size.toNat →
      rxStep c b =
        { outcome := .errSize
          block :=
            { b with
              st := .searchingSync
              buf := [size, port, lo, hi] ++ rest
              hSize := size
              hPort := port
              hCrc := field16 lo hi
              ctr :=
                { b.ctr with
                  sizeErr := wrapAdd c b.ctr.sizeErr 1
                  droppedBytes := wrapAdd c b.ctr.droppedBytes 2 } }
          event := none }

/-- R97: an accepted header fills the scratch registers and nothing else changes but the state register. -/
def Obligations.AcceptedHeaderFillsScratch : Prop :=
  ∀ (c : Config) (b : Block) (m0 m1 size port lo hi : Byte) (rest : Bytes),
    b.st = .awaitingHeader → b.buf = [m0, m1, size, port, lo, hi] ++ rest → size.toNat ≤ c.maxPayload →
      ∃ len : BitVec 9, len.toNat = 6 + size.toNat + 2 ∧
        rxStep c b =
          { outcome := .hdrOk
            block :=
              { b with
                st := .awaitingBody, hSize := size, hPort := port, hCrc := field16 lo hi, fLen := len }
            event := none }

/-- R67, R44: the checksum field is little-endian. -/
def Obligations.ChecksumFieldIsLittleEndian : Prop :=
  ∀ lo hi : Byte, (field16 lo hi).toNat = lo.toNat + 256 * hi.toNat

/-- R99: a trailer that is not the trailer magic is counted and recovered from. -/
def Obligations.TrailerMismatchRecovers : Prop :=
  ∀ (c : Config) (b : Block), b.st = .awaitingBody → b.fLen.toNat = 6 + b.hSize.toNat + 2 →
    b.fLen.toNat ≤ b.buf.length → ¬ MagicStands c.tm b.buf (6 + b.hSize.toNat) →
      rxStep c b =
        { outcome := .errTrailer
          block :=
            { b with
              st := .searchingSync
              buf := b.buf.drop 2
              ctr :=
                { b.ctr with
                  trailerErr := wrapAdd c b.ctr.trailerErr 1
                  droppedBytes := wrapAdd c b.ctr.droppedBytes 2 } }
          event := none }

/-- R100: a checksum that differs from the captured one is counted and recovered from. -/
def Obligations.ChecksumMismatchRecovers : Prop :=
  ∀ (c : Config) (b : Block), b.st = .awaitingBody → b.fLen.toNat = 6 + b.hSize.toNat + 2 →
    b.fLen.toNat ≤ b.buf.length → MagicStands c.tm b.buf (6 + b.hSize.toNat) →
    frameCrc c (b.buf.take b.fLen.toNat) ≠ b.hCrc →
      rxStep c b =
        { outcome := .errCrc
          block :=
            { b with
              st := .searchingSync
              buf := b.buf.drop 2
              ctr :=
                { b.ctr with
                  crcErr := wrapAdd c b.ctr.crcErr 1
                  droppedBytes := wrapAdd c b.ctr.droppedBytes 2 } }
          event := none }

/-- R101: a validated frame is counted with its whole length and leaves the buffer. For a registered port its
payload is emitted; for an unregistered one the no-receiver counter grows and nothing is emitted. -/
def Obligations.ValidatedFrameIsCountedAndConsumed : Prop :=
  ∀ (c : Config) (b : Block), b.st = .awaitingBody → b.fLen.toNat = 6 + b.hSize.toNat + 2 →
    b.fLen.toNat ≤ b.buf.length → MagicStands c.tm b.buf (6 + b.hSize.toNat) →
    frameCrc c (b.buf.take b.fLen.toNat) = b.hCrc →
      (b.reg.getLsbD b.hPort.toNat = true → rxStep c b =
        { outcome := .frameDispatched
          block :=
            { b with
              st := .searchingSync
              buf := b.buf.drop b.fLen.toNat
              ctr :=
                { b.ctr with
                  rcvMsgs := wrapAdd c b.ctr.rcvMsgs 1
                  rcvBytes := wrapAdd c b.ctr.rcvBytes b.fLen.toNat } }
          event := some { port := b.hPort, payload := (b.buf.drop 6).take b.hSize.toNat } }) ∧
      (b.reg.getLsbD b.hPort.toNat = false → rxStep c b =
        { outcome := .frameNoReceiver
          block :=
            { b with
              st := .searchingSync
              buf := b.buf.drop b.fLen.toNat
              ctr :=
                { b.ctr with
                  rcvMsgs := wrapAdd c b.ctr.rcvMsgs 1
                  rcvBytes := wrapAdd c b.ctr.rcvBytes b.fLen.toNat
                  noReceiver := wrapAdd c b.ctr.noReceiver 1 } }
          event := none })

/-- R121, R118, R119: each step counts the one error its outcome names and no other, in every state. -/
def Obligations.StepCountsItsOutcomeOnly : Prop :=
  ∀ (c : Config) (b : Block),
    let r := rxStep c b
    r.block.ctr.sizeErr = (if r.outcome = .errSize then wrapAdd c b.ctr.sizeErr 1 else b.ctr.sizeErr) ∧
      r.block.ctr.trailerErr = (if r.outcome = .errTrailer then wrapAdd c b.ctr.trailerErr 1 else b.ctr.trailerErr) ∧
      r.block.ctr.crcErr = (if r.outcome = .errCrc then wrapAdd c b.ctr.crcErr 1 else b.ctr.crcErr) ∧
      r.block.ctr.noReceiver =
        (if r.outcome = .frameNoReceiver then wrapAdd c b.ctr.noReceiver 1 else b.ctr.noReceiver) ∧
      r.block.ctr.rcvMsgs =
        (if r.outcome = .frameDispatched ∨ r.outcome = .frameNoReceiver then wrapAdd c b.ctr.rcvMsgs 1
          else b.ctr.rcvMsgs) ∧
      (r.event.isSome = true ↔ r.outcome = .frameDispatched)

/-! ## The frame codec -/

/-- R84: the shift-right loop and the non-reflected definition give the same checksum of every byte sequence. -/
def Obligations.BothChecksumFormsAgree : Prop :=
  ∀ (c : Config) (s : Bytes), crc16 c s = crc16Direct c s

/-- R87: the encoder has no result for a payload above `MAX_PAYLOAD`, and otherwise lays the frame out as R63 says:
its length, its fields, and a checksum field of the frame with that field at zero. -/
def Obligations.EncoderLaysOutTheFrame : Prop :=
  ∀ (c : Config) (port : Byte) (payload : Bytes),
    (c.maxPayload < payload.length → encodeFrame c port payload = none) ∧
      (payload.length ≤ c.maxPayload → ∃ lo hi : Byte,
        field16 lo hi =
            crc16 c ([c.hm.b0, c.hm.b1, BitVec.ofNat 8 payload.length, port, 0#8, 0#8] ++ payload ++
              [c.tm.b0, c.tm.b1]) ∧
          encodeFrame c port payload =
            some ([c.hm.b0, c.hm.b1, BitVec.ofNat 8 payload.length, port, lo, hi] ++ payload ++
              [c.tm.b0, c.tm.b1]))

/-- R88 (which the spec marks derived): "Every result of `Encode` is a valid frame". -/
def Obligations.EncodedFramesAreValid : Prop :=
  ∀ (c : Config) (port : Byte) (payload f : Bytes), encodeFrame c port payload = some f → validFrame c f = true

/-- R85: "the stored checksum bytes never take part in the checksum". For a sequence shorter than a header, of which R85
says nothing, this is log entry 24 (DESIGN CHOICE). -/
def Obligations.StoredChecksumDoesNotCount : Prop :=
  ∀ (c : Config) (s : Bytes) (x y : Byte), frameCrc c ((s.set 4 x).set 5 y) = frameCrc c s

/-- R89: a validator may compute the checksum incrementally, byte by byte from `0xFFFF`, feeding zeros in place of
the stored checksum: after the header and then the rest, it has `FrameCRC`. -/
def Obligations.IncrementalChecksumIsFrameCrc : Prop :=
  ∀ (c : Config) (m0 m1 size port lo hi : Byte) (s t : Bytes),
    crcFold (crcFold (crcFold 0xFFFF#16 [m0, m1, size, port, 0#8, 0#8]) s) t ^^^ c.crcXorOut.value =
      frameCrc c ([m0, m1, size, port, lo, hi] ++ s ++ t)

/-! ## Frames and drains -/

/-- R71 and R106 (sentences the spec marks derived): a valid frame at the buffer's head in `AWAITING_HEADER` is
accepted by the next two steps, whatever follows it. -/
def Obligations.ValidFrameAtHeadIsAccepted : Prop :=
  ∀ (c : Config) (b : Block) (f rest : Bytes), b.st = .awaitingHeader → validFrame c f = true →
    b.buf = f ++ rest →
      let r := rxStep c b
      let q := rxStep c r.block
      let port := f.getD 3 0#8
      r.outcome = .hdrOk ∧ q.block.st = .searchingSync ∧ q.block.buf = rest ∧
        q.outcome = (if b.reg.getLsbD port.toNat then .frameDispatched else .frameNoReceiver) ∧
        q.event =
          (if b.reg.getLsbD port.toNat then some { port := port, payload := (f.drop 6).take (f.length - 8) }
            else none)

/-- R92, R93, R97, R101, with no stray candidate before it (the premises of R109, which the spec marks derived): a valid
frame behind bytes that begin no header magic is found in one drain, the bytes before it counted as dropped. Where noise
and frame together exceed `BUF_CAP`, which R21 leaves open and no `PROCESS` appends, this is log entry 23 (DESIGN
CHOICE). -/
def Obligations.FrameBehindNoiseIsFound : Prop :=
  ∀ (c : Config) (b : Block) (noise f : Bytes), b.st = .searchingSync → b.buf = [] → validFrame c f = true →
    (∀ i < noise.length, ¬ MagicStands c.hm (noise ++ f) i) →
      let d := drain c (b.bufAppend (noise ++ f))
      let port := f.getD 3 0#8
      d.block.st = .searchingSync ∧ d.block.buf = [] ∧
        d.block.ctr.droppedBytes =
          (if noise = [] then b.ctr.droppedBytes else wrapAdd c b.ctr.droppedBytes noise.length) ∧
        d.block.ctr.rcvMsgs = wrapAdd c b.ctr.rcvMsgs 1 ∧
        d.block.ctr.rcvBytes = wrapAdd c b.ctr.rcvBytes f.length ∧
        d.events =
          (if b.reg.getLsbD port.toNat then [{ port := port, payload := (f.drop 6).take (f.length - 8) }] else [])

/-- R105 (which the spec marks derived): a drain of `L` bytes makes at most `3·L + 2` progress steps and then one
`WAIT` step, and more fuel changes nothing. -/
def Obligations.DrainTerminates : Prop :=
  ∀ (c : Config) (b : Block), b.Inv c →
    (∃ tr, (drain c b).trace = tr ++ [.wait] ∧ (∀ o ∈ tr, o.progress = true) ∧ tr.length ≤ 3 * b.buf.length + 2) ∧
      ∀ n, 3 * b.buf.length + 3 ≤ n → drainFuel c n b = drain c b

/-- R106, R104: after a drain, from any state at all, the block is at a fixpoint. -/
def Obligations.DrainEndsAtFixpoint : Prop :=
  ∀ (c : Config) (b : Block), (drain c b).block.AtFixpoint c

/-- R39 (which the spec marks derived): each receiver step keeps the three invariants. -/
def Obligations.ReceiverStepKeepsInvariants : Prop :=
  ∀ (c : Config) (b : Block), b.Inv c → (rxStep c b).block.Inv c

/-- R40 (which the spec marks derived): how little is buffered between operations, and that at least
`BUF_CAP - MAX_FRAME + 1` bytes are free. -/
def Obligations.RestBoundsAtFixpoint : Prop :=
  ∀ (c : Config) (b : Block), b.Inv c → b.AtFixpoint c →
    b.RestBounds ∧ b.buf.length ≤ c.maxFrame - 1 ∧ c.bufCap - c.maxFrame + 1 ≤ c.bufCap - b.buf.length

/-- R103 (which the spec marks derived), under `keep_last`: how the stream is split into reads does not matter. -/
def Obligations.ChunkingDoesNotMatterKeepLast : Prop :=
  ∀ (c : Config) (b : Block) (x y : Bytes), c.syncTailRule = .keepLast → b.Inv c → b.AtFixpoint c →
    b.buf.length + x.length + y.length ≤ c.bufCap →
      let whole := drain c (b.bufAppend (x ++ y))
      let first := drain c (b.bufAppend x)
      let second := drain c (first.block.bufAppend y)
      whole.block = second.block ∧ whole.events = first.events ++ second.events

/-- R103 (which the spec marks derived), under `keep_if_prefix`: the same, but for one byte that one run still holds
and the other has counted as dropped. -/
def Obligations.ChunkingDoesNotMatterKeepIfPrefix : Prop :=
  ∀ (c : Config) (b : Block) (x y : Bytes), c.syncTailRule = .keepIfPrefix → b.Inv c → b.AtFixpoint c →
    b.buf.length + x.length + y.length ≤ c.bufCap →
      let whole := drain c (b.bufAppend (x ++ y))
      let first := drain c (b.bufAppend x)
      let second := drain c (first.block.bufAppend y)
      let w := whole.block
      let v := second.block
      whole.events = first.events ++ second.events ∧
        w.st = v.st ∧ w.reg = v.reg ∧
        { w.ctr with droppedBytes := v.ctr.droppedBytes } = v.ctr ∧
        (w.st = .awaitingBody →
          w.hSize = v.hSize ∧ w.hPort = v.hPort ∧ w.hCrc = v.hCrc ∧ w.fLen = v.fLen) ∧
        wrapAdd c w.ctr.droppedBytes w.buf.length = wrapAdd c v.ctr.droppedBytes v.buf.length ∧
        (w.buf = v.buf ∨
          ∃ z, z ≠ c.hm.b0 ∧ w.st = .searchingSync ∧
            ((w.buf = [] ∧ v.buf = [z] ∧ w.ctr.droppedBytes = wrapAdd c v.ctr.droppedBytes 1) ∨
              (v.buf = [] ∧ w.buf = [z] ∧ v.ctr.droppedBytes = wrapAdd c w.ctr.droppedBytes 1)))

/-- R116 (which the spec marks derived): a frame that the encoder made for a registered port comes out of one
`PROCESS` as exactly its port and payload, with no error counted. The premise on `CTR_W` is R33's "no counter has
wrapped". `draws := []` means R82's answering, full read, by log entry 6 (DESIGN CHOICE). -/
def Obligations.EncodedFrameComesOutAgain : Prop :=
  ∀ (c : Config) (port : Byte) (payload f : Bytes) (reg : BitVec 256), encodeFrame c port payload = some f →
    reg.getLsbD port.toNat = true → payload.length + 8 < 2 ^ c.ctrW →
      ∃ t, exec .process
          { State.resetWith c with
            block := { Block.reset with reg := reg }, transport := { fifo := f, draws := [] } } = .next t ∧
        t.obs.events = [{ port := port, payload := payload }] ∧ t.obs.responses = [⟨.ok, 0⟩] ∧
        t.block.ctr =
          { rcvMsgs := 1, rcvBytes := payload.length + 8, droppedBytes := 0, crcErr := 0, sizeErr := 0
            trailerErr := 0, noReceiver := 0 } ∧
        t.block.st = .searchingSync ∧ t.block.buf = [] ∧ t.block.reg = reg ∧ t.transport.fifo = []

/-- R117 (which the spec marks derived): the same frame for an unregistered port emits nothing and is counted in
`no_receiver`, with no byte dropped. `draws := []` means R82's answering, full read, by log entry 6 (DESIGN CHOICE). -/
def Obligations.UnregisteredPortIsCounted : Prop :=
  ∀ (c : Config) (port : Byte) (payload f : Bytes) (reg : BitVec 256), encodeFrame c port payload = some f →
    reg.getLsbD port.toNat = false → payload.length + 8 < 2 ^ c.ctrW →
      ∃ t, exec .process
          { State.resetWith c with
            block := { Block.reset with reg := reg }, transport := { fifo := f, draws := [] } } = .next t ∧
        t.obs.events = [] ∧ t.obs.responses = [⟨.ok, 0⟩] ∧
        t.block.ctr =
          { rcvMsgs := 1, rcvBytes := payload.length + 8, droppedBytes := 0, crcErr := 0, sizeErr := 0
            trailerErr := 0, noReceiver := 1 } ∧
        t.block.st = .searchingSync ∧ t.block.buf = [] ∧ t.block.reg = reg ∧ t.transport.fifo = []

/-- R28, R31: no byte is lost or counted twice. Over an answered `PROCESS`, the bytes in the transport, in the
buffer, received in frames and dropped add up to what they were before plus what the link appended meanwhile, modulo
the counters' width. -/
def Obligations.EveryByteIsAccountedFor : Prop :=
  ∀ s t : State, s.block.Inv s.cfg → s.transport.nextDraw.availFails = false →
    s.transport.nextDraw.read.answers = true → exec .process s = .next t →
      (t.transport.fifo.length + t.block.buf.length + t.block.ctr.rcvBytes + t.block.ctr.droppedBytes) %
          2 ^ s.cfg.ctrW =
        (s.transport.fifo.length + s.transport.nextDraw.arrivals.length + s.block.buf.length +
          s.block.ctr.rcvBytes + s.block.ctr.droppedBytes) % 2 ^ s.cfg.ctrW

/-! ## Isolation and hazards -/

/-- R35, R60, R101: what the registry holds changes only which validated frames are emitted and the no-receiver
counter; it changes no framing decision, and the frames of ports that both registries hold come out the same, in the
same order. -/
def Obligations.RegistryDoesNotAffectFraming : Prop :=
  ∀ (c : Config) (b : Block) (reg : BitVec 256),
    let d := drain c b
    let e := drain c { b with reg := reg }
    e.block =
        { d.block with reg := reg, ctr := { d.block.ctr with noReceiver := e.block.ctr.noReceiver } } ∧
      e.trace.map StepOutcome.framing = d.trace.map StepOutcome.framing ∧
      e.events.filter (fun v => b.reg.getLsbD v.port.toNat) = d.events.filter (fun v => reg.getLsbD v.port.toNat)

/-- R101, R141: a drain emits events for registered ports only, and does not change the registry. -/
def Obligations.EventsOnlyForRegisteredPorts : Prop :=
  ∀ (c : Config) (b : Block),
    (drain c b).block.reg = b.reg ∧ ∀ e ∈ (drain c b).events, b.reg.getLsbD e.port.toNat = true

/-- R142, R114: what the counters hold changes no framing decision, so a `STATS_CLEAR` in the middle of a frame
loses none. -/
def Obligations.CountersDoNotAffectFraming : Prop :=
  ∀ (c : Config) (b : Block) (ctr : Counters),
    let d := drain c b
    let e := drain c { b with ctr := ctr }
    e.block = { d.block with ctr := e.block.ctr } ∧ e.events = d.events ∧ e.trace = d.trace

/-- R140 (a hazard the spec marks derived): while a candidate waits for its declared length, nothing behind its
header is looked at, be it a complete valid frame. (An append past `BUF_CAP`, in states that break R39: log entry 23.) -/
def Obligations.StaleHeaderDelaysEverything : Prop :=
  ∀ (c : Config) (b : Block) (s : Bytes), b.st = .awaitingBody → b.buf.length + s.length < b.fLen.toNat →
    drain c (b.bufAppend s) = { block := b.bufAppend s, events := [], trace := [.wait] }

/-- R147 (which the spec marks derived), under either tail rule: the first byte of a magic split across two reads is
kept, and the magic is found when its second byte comes. (An append past `BUF_CAP`: log entry 23, DESIGN CHOICE.) -/
def Obligations.SplitMagicIsFound : Prop :=
  ∀ (c : Config) (b : Block) (s rest : Bytes), b.st = .searchingSync →
    (∀ i, ¬ MagicStands c.hm (b.buf ++ s ++ [c.hm.b0]) i) →
      let d := drain c (b.bufAppend (s ++ [c.hm.b0]))
      d.block.st = .searchingSync ∧ d.block.buf = [c.hm.b0] ∧ d.events = [] ∧
        (rxStep c (d.block.bufAppend (c.hm.b1 :: rest))).outcome = .syncHead

/-- R149 (a hazard the spec marks derived): with equal magic bytes above `MAX_PAYLOAD`, one stray magic byte before a
valid frame makes the receiver reject a candidate one byte early and drop the frame's first byte. -/
def Obligations.StrayMagicByteCostsTheFrame : Prop :=
  ∀ (c : Config) (b : Block) (f rest : Bytes), c.hm.b0 = c.hm.b1 → c.maxPayload < c.hm.b0.toNat →
    validFrame c f = true → b.st = .searchingSync → b.buf = c.hm.b0 :: f ++ rest →
      let r := rxStep c b
      let q := rxStep c r.block
      r.outcome = .syncHead ∧ q.outcome = .errSize ∧ q.event = none ∧ q.block.st = .searchingSync ∧
        q.block.buf = f.drop 1 ++ rest

/-! ## Rules of the whole machine -/

/-- R36: over every step of the machine, a registry bit is set by `REGISTER` of its port alone, and cleared by reset
alone. -/
def Obligations.OnlyRegisterAndResetWriteRegistry : Prop :=
  ∀ s t : State, step s = .next t →
    t.block.reg = s.block.reg ∨
      (∃ (p : Byte) (rest : List Move), s.moves = .host (encode (.register p)) :: rest ∧
        ∀ q : Byte, t.block.reg.getLsbD q.toNat = (decide (q = p) || s.block.reg.getLsbD q.toNat)) ∨
      ∃ rest, s.moves = .reset :: rest ∧ t.block.reg = 0#256

/-- R32, R113: over every step of the machine, the counters change by `PROCESS`, `STATS_CLEAR` and reset alone; the
rest of the block by `PROCESS`, `REGISTER` and reset alone. -/
def Obligations.OnlyTheseMovesChangeTheBlock : Prop :=
  ∀ s t : State, step s = .next t →
    (t.block.ctr = s.block.ctr ∨ ∃ m rest, s.moves = m :: rest ∧
        (m = .host (encode .process) ∨ m = .host (encode .statsClear) ∨ m = .reset)) ∧
      (({ t.block with ctr := s.block.ctr, reg := s.block.reg } : Block) = s.block ∨
        ∃ m rest, s.moves = m :: rest ∧ (m = .host (encode .process) ∨ m = .reset))

/-- R25, R58, R73, R110: a step never changes the configuration, takes one move, adds one response for a host word and
none otherwise, and only a `PROCESS` adds events, behind those already emitted. -/
def Obligations.StepsOnlyAddToTheObservation : Prop :=
  ∀ s t : State, step s = .next t →
    t.cfg = s.cfg ∧ t.moves = s.moves.tail ∧
      (∃ es, t.obs.events = s.obs.events ++ es ∧
        (es ≠ [] → s.moves.head? = some (.host (encode .process)))) ∧
      ∃ rs, t.obs.responses = s.obs.responses ++ rs ∧
        rs.length = (match s.moves with | .host _ :: _ => 1 | _ => 0)

/-- R39, R40, R33, R110, R78: every step of the machine keeps the invariants of the block, its rest, the width of the
counters, the bound on payloads and the response format. -/
def Obligations.EveryStepKeepsTheInvariant : Prop :=
  ∀ s t : State, s.Inv → step s = .next t → t.Inv

/-- The invariant holds right after reset, under every configuration. -/
def Obligations.InvariantAtReset : Prop :=
  (∀ c : Config, (State.resetWith c).Inv) ∧ State.reset.Inv

/-- R82 (`.fail`) and R123, with log entries 6 and 9: the next transport call fails and no other. The `PROCESS` after the
directive returns `(IO_ERROR, 0)`, takes no byte from `T`, changes no block state, and leaves the draws that any
`PROCESS` would leave; a second `.fail` before that call adds nothing. -/
def Obligations.FailDirectiveFailsOnlyTheNextCall : Prop :=
  (∀ (s : State) (rest : List Move), s.moves = HostLine.fail.moves ++ rest →
      ∃ t, step s = .next t ∧
        exec .process t = .next
          { s with
            moves := rest
            transport :=
              { fifo := s.transport.fifo ++ s.transport.nextDraw.arrivals, draws := s.transport.draws.tail }
            obs := { s.obs with responses := s.obs.responses ++ [⟨.ioError, 0⟩] } }) ∧
    ∀ (s : State) (rest : List Move), s.moves = HostLine.fail.moves ++ (HostLine.fail.moves ++ rest) →
      ∃ t, step s = .next t ∧ step t = .next { t with moves := rest }
end

