-- ==== Sys2Proof/Laws/Operands.lean ====
section
/-! SUPPORT. The operands: reads inside the sequence, runs, the magic test, the counter index and the registry. -/

namespace Sys2Proof.Machine

/-- R21: inside the sequence, `BufRead(i)` is byte `i`. -/
theorem byteAt_of_getElem? {s : Bytes} {i : Nat} {x : Byte} (h : s[i]? = some x) : byteAt s i = x := by
  simp [byteAt, h]

theorem getElem?_byteAt {s : Bytes} {i : Nat} (h : i < s.length) : s[i]? = some (byteAt s i) := by
  simp [byteAt, h]

/-- A read inside `s` does not see what is appended to `s`. -/
theorem byteAt_append {s : Bytes} (t : Bytes) {i : Nat} (h : i < s.length) : byteAt (s ++ t) i = byteAt s i := by
  simp [byteAt, List.getElem?_append_left h]

/-- R45: the magic test, as a statement about the two bytes. -/
theorem magicAt_iff {m : Magic} {s : Bytes} {i : Nat} (h : i + 1 < s.length) :
    magicAt m s i = true ↔ s[i]? = some m.b0 ∧ s[i + 1]? = some m.b1 := by
  have h0 : i < s.length := by omega
  simp [magicAt, byteAt, h, h0]

/-- The magic test inside `s` does not see what is appended to `s`. -/
theorem magicAt_append {m : Magic} {s : Bytes} (t : Bytes) {i : Nat} (h : i + 1 < s.length) :
    magicAt m (s ++ t) i = magicAt m s i := by
  simp [magicAt, byteAt_append t h, byteAt_append t (show i < s.length by omega)]

theorem length_slice {s : Bytes} {a b : Nat} (h : b ≤ s.length) : (slice s a b).length = b - a := by
  simp only [slice, List.length_take, List.length_drop]
  omega

/-- R101: a payload is never longer than the declared size. -/
theorem length_payloadOf_le (s : Bytes) (size : Byte) : (payloadOf s size).length ≤ size.toNat := by
  simp only [payloadOf, slice, List.length_take]
  omega

/-- R97: the frame length fits the 9-bit register. -/
theorem toNat_ofNat_frameLen (size : Byte) : (BitVec.ofNat 9 (frameLen size)).toNat = 8 + size.toNat := by
  have := size.isLt
  simp only [frameLen, hdrLen, trlLen, BitVec.toNat_ofNat]
  omega

/-- R31, R34: the indices 0 to 6 name counters, and no other does. -/
theorem counterOf_eq_none_iff (i : Byte) : counterOf i = none ↔ 7 ≤ i.toNat := by
  unfold counterOf
  split <;> simp_all
  omega

/-- R36: after `reg[p] <- 1`, bit `p` is set and every other bit is as before. -/
theorem regBit_regSet (reg : BitVec 256) (p q : Byte) :
    regBit (regSet reg p) q = (decide (q = p) || regBit reg q) := by
  have hp := p.isLt
  have hq := q.isLt
  simp only [regBit, regSet, BitVec.getLsbD_or, BitVec.getLsbD_shiftLeft, BitVec.getLsbD_one]
  by_cases h : q = p
  · subst h
    simp [hq]
  · have hn : q.toNat ≠ p.toNat := fun h' => h (BitVec.eq_of_toNat_eq h')
    have : ¬ (p.toNat ≤ q.toNat ∧ q.toNat - p.toNat = 0) := by omega
    rcases Nat.lt_or_ge q.toNat p.toNat with hlt | hge
    · simp [h, hlt]
    · have : q.toNat - p.toNat ≠ 0 := by omega
      simp [h, this]

end Sys2Proof.Machine
end

