-- ==== Sys2Proof/Laws/Codec.lean ====
section
/-! SUPPORT. The codec: the checksum over joined sequences, lengths, and what a valid frame's test says. -/

namespace Sys2Proof.Machine

@[simp] theorem crcFold_nil (v : Word) : crcFold v [] = v := rfl

@[simp] theorem crcFold_cons (v : Word) (x : Byte) (s : Bytes) : crcFold v (x :: s) = crcFold (crcByte v x) s := rfl

/-- R83: the checksum register runs through joined sequences one after the other. -/
theorem crcFold_append (v : Word) (s t : Bytes) : crcFold v (s ++ t) = crcFold (crcFold v s) t := by
  simp [crcFold, List.foldl_append]

@[simp] theorem length_zeroCrcField (s : Bytes) : (zeroCrcField s).length = s.length := by
  simp [zeroCrcField]

@[simp] theorem length_blankFrame (c : Config) (port : Byte) (payload : Bytes) :
    (blankFrame c port payload).length = payload.length + 8 := by
  simp [blankFrame]

/-- R44: a 16-bit value is the field of its two bytes. -/
theorem field16_bytes (v : Word) : field16 (lowByte v) (highByte v) = v := by
  have hv := v.isLt
  apply BitVec.eq_of_toNat_eq
  simp only [field16, lowByte, highByte, BitVec.toNat_or, BitVec.toNat_shiftLeft, BitVec.toNat_setWidth,
    BitVec.extractLsb'_toNat, Nat.shiftLeft_eq, Nat.shiftRight_eq_div_pow]
  have e : v.toNat / 2 ^ 8 % 2 ^ 8 % 2 ^ 16 * 2 ^ 8 % 2 ^ 16 = 2 ^ 8 * (v.toNat / 2 ^ 8) := by omega
  rw [e, Nat.or_comm, ← Nat.two_pow_add_eq_or_of_lt (by omega)]
  omega

/-- R71: what the valid-frame test says, part by part. -/
theorem validFrame_iff (c : Config) (s : Bytes) :
    validFrame c s = true ↔
      8 ≤ s.length ∧ magicAt c.hm s 0 = true ∧ (byteAt s 2).toNat ≤ c.maxPayload ∧
        s.length = frameLen (byteAt s 2) ∧ magicAt c.tm s (trailerOffset (byteAt s 2)) = true ∧
        field16 (byteAt s 4) (byteAt s 5) = frameCrc c s := by
  simp [validFrame, and_assoc]

/-- R87: the encoder answers exactly for payloads of at most `MAX_PAYLOAD` bytes. -/
theorem encodeFrame_isSome_iff (c : Config) (port : Byte) (payload : Bytes) :
    (encodeFrame c port payload).isSome = true ↔ payload.length ≤ c.maxPayload := by
  unfold encodeFrame
  split <;> simp_all

/-- R87: the length of an encoded frame. -/
theorem length_of_encodeFrame {c : Config} {port : Byte} {payload f : Bytes}
    (h : encodeFrame c port payload = some f) : f.length = payload.length + 8 := by
  unfold encodeFrame at h
  split at h
  · cases h
    simp
  · cases h

end Sys2Proof.Machine
end

