-- ==== Sys2Proof/Laws/Decode.lean ====
section
/-! SUPPORT. The fields of a command word: what a composed word's fields are, and that a word whose reserved field is
zero is composed of its fields (30_encoding.md R74). -/

namespace Sys2Proof

@[simp] theorem cmdRsv_cmdWord (a : Byte) (op : BitVec 4) : cmdRsv (cmdWord a op) = 0#4 := by
  unfold cmdRsv cmdWord
  ext i hi
  have h : 4 + i < 8 := by omega
  simp [BitVec.getElem_extractLsb', BitVec.getLsbD_shiftLeft, h]

@[simp] theorem cmdOp_cmdWord (a : Byte) (op : BitVec 4) : cmdOp (cmdWord a op) = op := by
  unfold cmdOp cmdWord
  ext i hi
  have h : i < 16 := by omega
  have h8 : i < 8 := by omega
  simp [BitVec.getElem_extractLsb', h, h8, hi]

@[simp] theorem cmdArg_cmdWord (a : Byte) (op : BitVec 4) : cmdArg (cmdWord a op) = a := by
  unfold cmdArg cmdWord
  ext i hi
  have h : 8 + i < 16 := by omega
  simp [BitVec.getElem_extractLsb', h]
  rw [BitVec.getLsbD_of_ge op _ (by omega)]
  simp [BitVec.getLsbD_eq_getElem hi]

theorem toNat_cmdWord (a : Byte) (op : BitVec 4) : (cmdWord a op).toNat = a.toNat * 256 + op.toNat := by
  have ha := a.isLt
  have ho := op.isLt
  simp only [cmdWord, BitVec.toNat_or, BitVec.toNat_shiftLeft, BitVec.toNat_setWidth, Nat.shiftLeft_eq]
  have e : a.toNat % 2 ^ 16 * 2 ^ 8 % 2 ^ 16 = 2 ^ 8 * a.toNat := by omega
  have e' : op.toNat % 2 ^ 16 = op.toNat := by omega
  rw [e, e', ← Nat.two_pow_add_eq_or_of_lt (by omega)]
  omega

theorem toNat_cmdOp (w : Word) : (cmdOp w).toNat = w.toNat % 16 := by
  simp [cmdOp]

theorem toNat_cmdRsv (w : Word) : (cmdRsv w).toNat = w.toNat / 16 % 16 := by
  simp [cmdRsv, Nat.shiftRight_eq_div_pow]

theorem toNat_cmdArg (w : Word) : (cmdArg w).toNat = w.toNat / 256 := by
  have := w.isLt
  simp only [cmdArg, BitVec.extractLsb'_toNat, Nat.shiftRight_eq_div_pow]
  omega

/-- R74: a word with a zero reserved field is the word of its argument and its operation code. -/
theorem cmdWord_fields {w : Word} (h : cmdRsv w = 0#4) : cmdWord (cmdArg w) (cmdOp w) = w := by
  have hr := congrArg BitVec.toNat h
  rw [toNat_cmdRsv, BitVec.toNat_ofNat] at hr
  apply BitVec.eq_of_toNat_eq
  rw [toNat_cmdWord, toNat_cmdArg, toNat_cmdOp]
  omega

end Sys2Proof
end

