-- ==== Sys2Proof/Laws/State.lean ====
section
/-! SUPPORT. One lemma for each field under each update of the block, the transport and the state. -/

namespace Sys2Proof.Machine

section Bufdrop

variable (b : Block) (n : Nat)

@[simp] theorem Block.bufDrop_st : (b.bufDrop n).st = b.st := rfl
@[simp] theorem Block.bufDrop_buf : (b.bufDrop n).buf = b.buf.drop n := rfl
@[simp] theorem Block.bufDrop_hSize : (b.bufDrop n).hSize = b.hSize := rfl
@[simp] theorem Block.bufDrop_hPort : (b.bufDrop n).hPort = b.hPort := rfl
@[simp] theorem Block.bufDrop_hCrc : (b.bufDrop n).hCrc = b.hCrc := rfl
@[simp] theorem Block.bufDrop_fLen : (b.bufDrop n).fLen = b.fLen := rfl
@[simp] theorem Block.bufDrop_ctr : (b.bufDrop n).ctr = b.ctr := rfl
@[simp] theorem Block.bufDrop_reg : (b.bufDrop n).reg = b.reg := rfl

end Bufdrop

section Bufappend

variable (b : Block) (s : Bytes)

@[simp] theorem Block.bufAppend_st : (b.bufAppend s).st = b.st := rfl
@[simp] theorem Block.bufAppend_buf : (b.bufAppend s).buf = b.buf ++ s := rfl
@[simp] theorem Block.bufAppend_hSize : (b.bufAppend s).hSize = b.hSize := rfl
@[simp] theorem Block.bufAppend_hPort : (b.bufAppend s).hPort = b.hPort := rfl
@[simp] theorem Block.bufAppend_hCrc : (b.bufAppend s).hCrc = b.hCrc := rfl
@[simp] theorem Block.bufAppend_fLen : (b.bufAppend s).fLen = b.fLen := rfl
@[simp] theorem Block.bufAppend_ctr : (b.bufAppend s).ctr = b.ctr := rfl
@[simp] theorem Block.bufAppend_reg : (b.bufAppend s).reg = b.reg := rfl

end Bufappend

section Count

variable (b : Block) (c : Config) (n : CtrName) (k : Nat)

@[simp] theorem Block.count_st : (b.count c n k).st = b.st := rfl
@[simp] theorem Block.count_buf : (b.count c n k).buf = b.buf := rfl
@[simp] theorem Block.count_hSize : (b.count c n k).hSize = b.hSize := rfl
@[simp] theorem Block.count_hPort : (b.count c n k).hPort = b.hPort := rfl
@[simp] theorem Block.count_hCrc : (b.count c n k).hCrc = b.hCrc := rfl
@[simp] theorem Block.count_fLen : (b.count c n k).fLen = b.fLen := rfl
@[simp] theorem Block.count_ctr : (b.count c n k).ctr = b.ctr.add c n k := rfl
@[simp] theorem Block.count_reg : (b.count c n k).reg = b.reg := rfl

end Count

section Goto

variable (b : Block) (q : RxState)

@[simp] theorem Block.goto_st : (b.goto q).st = q := rfl
@[simp] theorem Block.goto_buf : (b.goto q).buf = b.buf := rfl
@[simp] theorem Block.goto_hSize : (b.goto q).hSize = b.hSize := rfl
@[simp] theorem Block.goto_hPort : (b.goto q).hPort = b.hPort := rfl
@[simp] theorem Block.goto_hCrc : (b.goto q).hCrc = b.hCrc := rfl
@[simp] theorem Block.goto_fLen : (b.goto q).fLen = b.fLen := rfl
@[simp] theorem Block.goto_ctr : (b.goto q).ctr = b.ctr := rfl
@[simp] theorem Block.goto_reg : (b.goto q).reg = b.reg := rfl

end Goto

section Captureheader

variable (b : Block)

@[simp] theorem Block.captureHeader_st : (b.captureHeader).st = b.st := rfl
@[simp] theorem Block.captureHeader_buf : (b.captureHeader).buf = b.buf := rfl
@[simp] theorem Block.captureHeader_hSize : (b.captureHeader).hSize = byteAt b.buf 2 := rfl
@[simp] theorem Block.captureHeader_hPort : (b.captureHeader).hPort = byteAt b.buf 3 := rfl
@[simp] theorem Block.captureHeader_hCrc : (b.captureHeader).hCrc = field16 (byteAt b.buf 4) (byteAt b.buf 5) := rfl
@[simp] theorem Block.captureHeader_fLen : (b.captureHeader).fLen = b.fLen := rfl
@[simp] theorem Block.captureHeader_ctr : (b.captureHeader).ctr = b.ctr := rfl
@[simp] theorem Block.captureHeader_reg : (b.captureHeader).reg = b.reg := rfl

end Captureheader

section Setframelen

variable (b : Block)

@[simp] theorem Block.setFrameLen_st : (b.setFrameLen).st = b.st := rfl
@[simp] theorem Block.setFrameLen_buf : (b.setFrameLen).buf = b.buf := rfl
@[simp] theorem Block.setFrameLen_hSize : (b.setFrameLen).hSize = b.hSize := rfl
@[simp] theorem Block.setFrameLen_hPort : (b.setFrameLen).hPort = b.hPort := rfl
@[simp] theorem Block.setFrameLen_hCrc : (b.setFrameLen).hCrc = b.hCrc := rfl
@[simp] theorem Block.setFrameLen_fLen : (b.setFrameLen).fLen = BitVec.ofNat 9 (frameLen b.hSize) := rfl
@[simp] theorem Block.setFrameLen_ctr : (b.setFrameLen).ctr = b.ctr := rfl
@[simp] theorem Block.setFrameLen_reg : (b.setFrameLen).reg = b.reg := rfl

end Setframelen

section Countframe

variable (b : Block) (c : Config)

@[simp] theorem Block.countFrame_st : (b.countFrame c).st = b.st := rfl
@[simp] theorem Block.countFrame_buf : (b.countFrame c).buf = b.buf := rfl
@[simp] theorem Block.countFrame_hSize : (b.countFrame c).hSize = b.hSize := rfl
@[simp] theorem Block.countFrame_hPort : (b.countFrame c).hPort = b.hPort := rfl
@[simp] theorem Block.countFrame_hCrc : (b.countFrame c).hCrc = b.hCrc := rfl
@[simp] theorem Block.countFrame_fLen : (b.countFrame c).fLen = b.fLen := rfl
@[simp] theorem Block.countFrame_ctr : (b.countFrame c).ctr = (b.ctr.add c .rcvMsgs 1).add c .rcvBytes b.fLen.toNat := rfl
@[simp] theorem Block.countFrame_reg : (b.countFrame c).reg = b.reg := rfl

end Countframe

section Consumeframe

variable (b : Block)

@[simp] theorem Block.consumeFrame_st : (b.consumeFrame).st = .searchingSync := rfl
@[simp] theorem Block.consumeFrame_buf : (b.consumeFrame).buf = b.buf.drop b.fLen.toNat := rfl
@[simp] theorem Block.consumeFrame_hSize : (b.consumeFrame).hSize = b.hSize := rfl
@[simp] theorem Block.consumeFrame_hPort : (b.consumeFrame).hPort = b.hPort := rfl
@[simp] theorem Block.consumeFrame_hCrc : (b.consumeFrame).hCrc = b.hCrc := rfl
@[simp] theorem Block.consumeFrame_fLen : (b.consumeFrame).fLen = b.fLen := rfl
@[simp] theorem Block.consumeFrame_ctr : (b.consumeFrame).ctr = b.ctr := rfl
@[simp] theorem Block.consumeFrame_reg : (b.consumeFrame).reg = b.reg := rfl

end Consumeframe

section Recover

variable (b : Block) (c : Config)

@[simp] theorem Block.recover_st : (b.recover c).st = .searchingSync := rfl
@[simp] theorem Block.recover_buf : (b.recover c).buf = b.buf.drop magicW := rfl
@[simp] theorem Block.recover_hSize : (b.recover c).hSize = b.hSize := rfl
@[simp] theorem Block.recover_hPort : (b.recover c).hPort = b.hPort := rfl
@[simp] theorem Block.recover_hCrc : (b.recover c).hCrc = b.hCrc := rfl
@[simp] theorem Block.recover_fLen : (b.recover c).fLen = b.fLen := rfl
@[simp] theorem Block.recover_ctr : (b.recover c).ctr = b.ctr.add c .droppedBytes magicW := rfl
@[simp] theorem Block.recover_reg : (b.recover c).reg = b.reg := rfl

end Recover

section Respond

variable (s : State) (q : Status) (v : Nat)

@[simp] theorem State.respond_cfg : (s.respond q v).cfg = s.cfg := rfl
@[simp] theorem State.respond_block : (s.respond q v).block = s.block := rfl
@[simp] theorem State.respond_transport : (s.respond q v).transport = s.transport := rfl
@[simp] theorem State.respond_obs : (s.respond q v).obs = { s.obs with responses := s.obs.responses ++ [⟨q, v⟩] } := rfl
@[simp] theorem State.respond_moves : (s.respond q v).moves = s.moves := rfl

end Respond

section Emit

variable (s : State) (es : List Dispatch) (tr : List StepOutcome)

@[simp] theorem State.emit_cfg : (s.emit es tr).cfg = s.cfg := rfl
@[simp] theorem State.emit_block : (s.emit es tr).block = s.block := rfl
@[simp] theorem State.emit_transport : (s.emit es tr).transport = s.transport := rfl
@[simp] theorem State.emit_obs : (s.emit es tr).obs = { s.obs with events := s.obs.events ++ es, trace := s.obs.trace ++ tr } := rfl
@[simp] theorem State.emit_moves : (s.emit es tr).moves = s.moves := rfl

end Emit

section Takemove

variable (s : State)

@[simp] theorem State.takeMove_cfg : (s.takeMove).cfg = s.cfg := rfl
@[simp] theorem State.takeMove_block : (s.takeMove).block = s.block := rfl
@[simp] theorem State.takeMove_transport : (s.takeMove).transport = s.transport := rfl
@[simp] theorem State.takeMove_obs : (s.takeMove).obs = s.obs := rfl
@[simp] theorem State.takeMove_moves : (s.takeMove).moves = s.moves.tail := rfl

end Takemove

section Issue

variable (s : State) (w : Word)

@[simp] theorem State.issue_cfg : (s.issue w).cfg = s.cfg := rfl
@[simp] theorem State.issue_block : (s.issue w).block = s.block := rfl
@[simp] theorem State.issue_transport : (s.issue w).transport = s.transport := rfl
@[simp] theorem State.issue_obs : (s.issue w).obs = s.obs := rfl
@[simp] theorem State.issue_moves : (s.issue w).moves = .host w :: s.moves := rfl

end Issue

section Betweencalls

variable (s : State) (d : Draw)

@[simp] theorem State.betweenCalls_cfg : (s.betweenCalls d).cfg = s.cfg := rfl
@[simp] theorem State.betweenCalls_block : (s.betweenCalls d).block = s.block := rfl
@[simp] theorem State.betweenCalls_transport : (s.betweenCalls d).transport = s.transport.useDraw.linkAppend d.arrivals := rfl
@[simp] theorem State.betweenCalls_obs : (s.betweenCalls d).obs = s.obs := rfl
@[simp] theorem State.betweenCalls_moves : (s.betweenCalls d).moves = s.moves := rfl

end Betweencalls

section Transports

@[simp] theorem Transport.useDraw_fifo (t : Transport) : (t.useDraw).fifo = t.fifo := rfl
@[simp] theorem Transport.useDraw_draws (t : Transport) : (t.useDraw).draws = t.draws.tail := rfl
@[simp] theorem Transport.settle_fifo (t : Transport) (d : Draw) : (t.settle d).fifo = t.fifo := rfl
@[simp] theorem Transport.settle_draws (t : Transport) (d : Draw) : (t.settle d).draws = t.draws ++ [d] := rfl
@[simp] theorem Transport.failNext_fifo (t : Transport) : t.failNext.fifo = t.fifo := rfl
@[simp] theorem Transport.failNext_draws (t : Transport) :
    t.failNext.draws = { t.nextDraw with availFails := true } :: t.draws.tail := rfl
@[simp] theorem Transport.linkAppend_fifo (t : Transport) (s : Bytes) : (t.linkAppend s).fifo = t.fifo ++ s := rfl
@[simp] theorem Transport.linkAppend_draws (t : Transport) (s : Bytes) : (t.linkAppend s).draws = t.draws := rfl
@[simp] theorem Transport.afterRead_fifo (t : Transport) (d : Draw) (m : Nat) : (t.afterRead d m).fifo = t.fifo.drop (t.readCount d m) := rfl
@[simp] theorem Transport.afterRead_draws (t : Transport) (d : Draw) (m : Nat) : (t.afterRead d m).draws = t.draws := rfl

end Transports

section Resets

@[simp] theorem Block.reset_st : Block.reset.st = .searchingSync := rfl
@[simp] theorem Block.reset_buf : Block.reset.buf = [] := rfl
@[simp] theorem Block.reset_hSize : Block.reset.hSize = 0#8 := rfl
@[simp] theorem Block.reset_hPort : Block.reset.hPort = 0#8 := rfl
@[simp] theorem Block.reset_hCrc : Block.reset.hCrc = 0#16 := rfl
@[simp] theorem Block.reset_fLen : Block.reset.fLen = 0#9 := rfl
@[simp] theorem Block.reset_ctr : Block.reset.ctr = Counters.zero := rfl
@[simp] theorem Block.reset_reg : Block.reset.reg = 0#256 := rfl
@[simp] theorem State.resetWith_cfg (c : Config) : (State.resetWith c).cfg = c := rfl
@[simp] theorem State.resetWith_block (c : Config) : (State.resetWith c).block = Block.reset := rfl
@[simp] theorem State.resetWith_transport (c : Config) : (State.resetWith c).transport = ⟨[], []⟩ := rfl
@[simp] theorem State.resetWith_obs (c : Config) : (State.resetWith c).obs = ⟨[], [], []⟩ := rfl
@[simp] theorem State.resetWith_moves (c : Config) : (State.resetWith c).moves = [] := rfl

end Resets

end Sys2Proof.Machine
end

