-- ==== Sys2Proof/Laws/Flags.lean ====
section
/-! SUPPORT. The counters: reading after writing, the one increment, and that it keeps every counter in its width. -/

namespace Sys2Proof.Machine

@[simp] theorem Counters.get_set_self (x : Counters) (n : CtrName) (v : Nat) : (x.set n v).get n = v := by
  cases n <;> rfl

theorem Counters.get_set_of_ne (x : Counters) {n k : CtrName} (v : Nat) (h : k ≠ n) :
    (x.set n v).get k = x.get k := by
  cases n <;> cases k <;> first | rfl | exact absurd rfl h

@[simp] theorem Counters.get_add_self (x : Counters) (c : Config) (n : CtrName) (k : Nat) :
    (x.add c n k).get n = (x.get n + k) % 2 ^ c.ctrW := by
  simp [Counters.add]

theorem Counters.get_add_of_ne (x : Counters) (c : Config) {n m : CtrName} (k : Nat) (h : m ≠ n) :
    (x.add c n k).get m = x.get m := by
  simp [Counters.add, Counters.get_set_of_ne _ _ h]

/-- Two sets of counters that agree under every name are equal. -/
theorem Counters.ext_get {x y : Counters} (h : ∀ n, x.get n = y.get n) : x = y := by
  have h0 := h .rcvMsgs
  have h1 := h .rcvBytes
  have h2 := h .droppedBytes
  have h3 := h .crcErr
  have h4 := h .sizeErr
  have h5 := h .trailerErr
  have h6 := h .noReceiver
  cases x
  cases y
  simp_all [Counters.get]

/-- R33: an increment by `k` and then by `l` is one increment by `k + l`. -/
theorem Counters.add_add (x : Counters) (c : Config) (n : CtrName) (k l : Nat) :
    (x.add c n k).add c n l = x.add c n (k + l) := by
  apply Counters.ext_get
  intro m
  by_cases h : m = n
  · subst h
    simp [Nat.add_assoc]
  · simp [Counters.get_add_of_ne _ _ _ h]

/-- Increments of two different counters commute. -/
theorem Counters.add_comm_of_ne (x : Counters) (c : Config) {n m : CtrName} (k l : Nat) (h : n ≠ m) :
    (x.add c n k).add c m l = (x.add c m l).add c n k := by
  apply Counters.ext_get
  intro q
  by_cases hn : q = n
  · subst hn
    simp [Counters.get_add_of_ne _ _ _ h]
  · by_cases hm : q = m
    · subst hm
      simp [Counters.get_add_of_ne _ _ _ hn]
    · simp [Counters.get_add_of_ne _ _ _ hn, Counters.get_add_of_ne _ _ _ hm]

/-- R33: an incremented counter is a `CTR_W`-bit value, and the others keep their values. -/
theorem Counters.get_add_lt (x : Counters) (c : Config) (n m : CtrName) (k : Nat)
    (h : x.get m < 2 ^ c.ctrW) : (x.add c n k).get m < 2 ^ c.ctrW := by
  by_cases hm : m = n
  · subst hm
    simpa using Nat.mod_lt _ (Nat.two_pow_pos _)
  · rwa [Counters.get_add_of_ne _ _ _ hm]

@[simp] theorem Counters.zero_get (n : CtrName) : Counters.zero.get n = 0 := by
  cases n <;> rfl

/-- R119: exactly `WAIT` reports no progress. -/
theorem StepOutcome.progress_eq_false_iff (o : StepOutcome) : o.progress = false ↔ o = .wait := by
  cases o <;> simp [StepOutcome.progress]

/-- R119: every outcome but `WAIT` reports progress. -/
theorem StepOutcome.progress_eq_true_iff (o : StepOutcome) : o.progress = true ↔ o ≠ .wait := by
  cases o <;> simp [StepOutcome.progress]

end Sys2Proof.Machine
end

