-- ==== Sys2Proof/Laws/Receiver.lean ====
section
/-! SUPPORT. The receiver: what one step can do, said once, and how a drain unfolds. -/

namespace Sys2Proof.Machine

/-- R91 to R94: everything a step in `SEARCHING_SYNC` can do. -/
theorem stepSearching_cases (c : Config) (b : Block) :
    (b.buf.length < magicW ∧ stepSearching c b = stepWait b) ∨
      (∃ k, magicW ≤ b.buf.length ∧ findSync c.hm b.buf = some k ∧ stepSearching c b = stepSyncFound c b k) ∨
      (magicW ≤ b.buf.length ∧ findSync c.hm b.buf = none ∧ stepSearching c b = stepNosync c b) := by
  unfold stepSearching
  by_cases h : b.buf.length < magicW
  · simp [h]
  · have h' : magicW ≤ b.buf.length := by omega
    cases hk : findSync c.hm b.buf <;> simp [h, h']

/-- R95 to R97: everything a step in `AWAITING_HEADER` can do. -/
theorem stepHeader_cases (c : Config) (b : Block) :
    (b.buf.length < hdrLen ∧ stepHeader c b = stepWait b) ∨
      (hdrLen ≤ b.buf.length ∧ c.maxPayload < (byteAt b.buf 2).toNat ∧
        stepHeader c b = { outcome := .errSize, block := b.captureHeader.takeError c .size, event := none }) ∨
      (hdrLen ≤ b.buf.length ∧ (byteAt b.buf 2).toNat ≤ c.maxPayload ∧
        stepHeader c b =
          { outcome := .hdrOk, block := b.captureHeader.setFrameLen.goto .awaitingBody, event := none }) := by
  unfold stepHeader stepHeaderCaptured
  by_cases h : b.buf.length < hdrLen
  · simp [h]
  · have h' : hdrLen ≤ b.buf.length := by omega
    by_cases hs : c.maxPayload < (byteAt b.buf 2).toNat
    · simp [h, h', hs]
    · simp [h, h', hs, Nat.le_of_not_lt hs]

/-- R98 to R101, R121: everything a step in `AWAITING_BODY` can do, the checks in their order. -/
theorem stepBody_cases (c : Config) (b : Block) :
    (b.buf.length < b.fLen.toNat ∧ stepBody c b = stepWait b) ∨
      (b.fLen.toNat ≤ b.buf.length ∧ magicAt c.tm b.buf (trailerOffset b.hSize) = false ∧
        stepBody c b = { outcome := .errTrailer, block := b.takeError c .trailer, event := none }) ∨
      (b.fLen.toNat ≤ b.buf.length ∧ magicAt c.tm b.buf (trailerOffset b.hSize) = true ∧
        frameCrc c (b.buf.take b.fLen.toNat) ≠ b.hCrc ∧
        stepBody c b = { outcome := .errCrc, block := b.takeError c .crc, event := none }) ∨
      (b.fLen.toNat ≤ b.buf.length ∧ magicAt c.tm b.buf (trailerOffset b.hSize) = true ∧
        frameCrc c (b.buf.take b.fLen.toNat) = b.hCrc ∧ stepBody c b = stepAccept c b) := by
  unfold stepBody
  by_cases h : b.buf.length < b.fLen.toNat
  · simp [h]
  · have h' : b.fLen.toNat ≤ b.buf.length := by omega
    by_cases ht : magicAt c.tm b.buf (trailerOffset b.hSize) = false
    · simp [h, h', ht]
    · by_cases hc : frameCrc c (b.buf.take b.fLen.toNat) = b.hCrc <;> simp [h, h', ht, hc]

/-- R101: everything an accepting step can do: emit the payload, or count it as having no receiver. -/
theorem stepAccept_cases (c : Config) (b : Block) :
    (regBit b.reg b.hPort = true ∧
        stepAccept c b =
          { outcome := .frameDispatched
            block := (b.countFrame c).consumeFrame
            event := some { port := b.hPort, payload := payloadOf b.buf b.hSize } }) ∨
      (regBit b.reg b.hPort = false ∧
        stepAccept c b =
          { outcome := .frameNoReceiver
            block := ((b.countFrame c).count c .noReceiver 1).consumeFrame
            event := none }) := by
  cases h : regBit b.reg b.hPort <;> simp [stepAccept, h, Block.record, Cause.counter?]

/-- R94: a scan without a magic discards all bytes or all but the last. -/
theorem nosyncCount_cases (c : Config) (s : Bytes) :
    nosyncCount c s = s.length - 1 ∨ nosyncCount c s = s.length := by
  unfold nosyncCount
  split
  · exact .inl rfl
  · split
    · exact .inl rfl
    · exact .inr rfl

/-- R94: a scan of at least 2 bytes without a magic discards at least one, so it makes progress. -/
theorem nosyncCount_pos (c : Config) {s : Bytes} (h : magicW ≤ s.length) : 0 < nosyncCount c s := by
  simp only [magicW] at h
  rcases nosyncCount_cases c s with h' | h' <;> omega

/-- R90: the step dispatches on the state register. -/
theorem rxStep_searching {c : Config} {b : Block} (h : b.st = .searchingSync) : rxStep c b = stepSearching c b := by
  simp [rxStep, h]

theorem rxStep_header {c : Config} {b : Block} (h : b.st = .awaitingHeader) : rxStep c b = stepHeader c b := by
  simp [rxStep, h]

theorem rxStep_body {c : Config} {b : Block} (h : b.st = .awaitingBody) : rxStep c b = stepBody c b := by
  simp [rxStep, h]

/-- R122: what entry into recovery leaves, field by field, for a cause whose counter is `n`. -/
theorem Block.takeError_eq (b : Block) (c : Config) (e : Cause) {n : CtrName} (h : e.counter? = some n) :
    b.takeError c e =
      { b with
        st := .searchingSync
        buf := b.buf.drop magicW
        ctr := (b.ctr.add c n 1).add c .droppedBytes magicW } := by
  simp [Block.takeError, Block.record, h, Block.recover, Block.count, Block.bufDrop, Block.goto]

/-- A drain with no fuel does nothing. -/
@[simp] theorem drainFuel_zero (c : Config) (b : Block) :
    drainFuel c 0 b = { block := b, events := [], trace := [] } := rfl

/-- R104: a drain from a state that makes progress takes that step first. -/
theorem drainFuel_of_progress {c : Config} {b : Block} (n : Nat) (h : (rxStep c b).progress = true) :
    drainFuel c (n + 1) b = (drainFuel c n (rxStep c b).block).after (rxStep c b) := by
  simp [drainFuel, h]

/-- R104: a drain at a fixpoint is one step that reports no progress. -/
theorem drainFuel_of_fixpoint {c : Config} {b : Block} (n : Nat) (h : (rxStep c b).progress = false) :
    drainFuel c (n + 1) b =
      { block := (rxStep c b).block, events := [], trace := [(rxStep c b).outcome] } := by
  simp [drainFuel, h]

/-- R92: the search stops at the first offset where the magic stands, its window inside the sequence. -/
theorem findSync_eq_some {m : Magic} {s : Bytes} {k : Nat} (h : findSync m s = some k) :
    s[k]? = some m.b0 ∧ s[k + 1]? = some m.b1 ∧ ∀ i < k, ¬ (s[i]? = some m.b0 ∧ s[i + 1]? = some m.b1) := by
  induction s generalizing k with
  | nil => simp [findSync] at h
  | cons x s ih =>
    cases s with
    | nil => simp [findSync] at h
    | cons y rest =>
      by_cases hxy : x = m.b0 ∧ y = m.b1
      · simp only [findSync, hxy, and_self, if_true, Option.some.injEq] at h
        subst h
        simp [hxy.1, hxy.2]
      · simp only [findSync, hxy, if_false, Option.map_eq_some_iff] at h
        obtain ⟨j, hj, rfl⟩ := h
        obtain ⟨h0, h1, hl⟩ := ih hj
        refine ⟨by simpa using h0, by simpa using h1, fun i hi => ?_⟩
        cases i with
        | zero => simpa using hxy
        | succ i => simpa using hl i (by omega)

/-- R92: the search finds nothing exactly where the magic stands at no offset. -/
theorem findSync_eq_none_iff {m : Magic} {s : Bytes} :
    findSync m s = none ↔ ∀ i, ¬ (s[i]? = some m.b0 ∧ s[i + 1]? = some m.b1) := by
  induction s with
  | nil => simp [findSync]
  | cons x s ih =>
    cases s with
    | nil =>
      simp only [findSync, true_iff]
      intro i
      cases i <;> simp
    | cons y rest =>
      by_cases hxy : x = m.b0 ∧ y = m.b1
      · simp only [findSync, hxy, and_self, if_true, reduceCtorEq, false_iff]
        exact fun h => h 0 (by simp)
      · simp only [findSync, hxy, if_false, Option.map_eq_none_iff, ih]
        constructor
        · intro h i
          cases i with
          | zero => simpa using hxy
          | succ i => simpa using h i
        · intro h i
          simpa using h (i + 1)

end Sys2Proof.Machine
end

