-- ==== Sys2Proof/Laws/Transport.lean ====
section
/-! SUPPORT. The transport's calls: once for all, what each can answer. -/

namespace Sys2Proof.Machine

/-- R51, R123: a read takes at most what was asked for and at most what is there. -/
theorem Transport.readCount_le (t : Transport) (d : Draw) (m : Nat) :
    t.readCount d m ≤ m ∧ t.readCount d m ≤ t.fifo.length := by
  unfold Transport.readCount
  split <;> omega

/-- R51: what a read returns is the head of `T`, of the length the draw gives. -/
theorem Transport.readBytes_eq_some {t : Transport} {d : Draw} {m : Nat} {s : Bytes}
    (h : t.readBytes d m = some s) :
    s = t.fifo.take (t.readCount d m) ∧ s.length = t.readCount d m ∧ s ++ (t.afterRead d m).fifo = t.fifo := by
  have hs : s = t.fifo.take (t.readCount d m) := by
    unfold Transport.readBytes at h
    split at h <;> simp_all
  refine ⟨hs, ?_, ?_⟩
  · have := (t.readCount_le d m).2
    simp [hs, this]
  · simp [hs]

/-- R52: a read fails exactly on a failing draw. -/
theorem Transport.readBytes_eq_none_iff (t : Transport) (d : Draw) (m : Nat) :
    t.readBytes d m = none ↔ ∃ lost, d.read = .fail lost := by
  unfold Transport.readBytes
  split <;> simp_all

/-- R82: once its failure is settled, the next `PROCESS` meets a failing `bytes_available`. -/
@[simp] theorem Transport.failNext_nextDraw (t : Transport) :
    t.failNext.nextDraw = { t.nextDraw with availFails := true } := rfl

/-- R82: the failure is the next call's alone: once a `PROCESS` has used its draws up, nothing of it is left. -/
@[simp] theorem Transport.failNext_useDraw (t : Transport) : t.failNext.useDraw = t.useDraw := rfl

/-- R82: to settle twice that the next call fails is to settle it once. -/
@[simp] theorem Transport.failNext_failNext (t : Transport) : t.failNext.failNext = t.failNext := rfl

end Sys2Proof.Machine
end

