-- ==== Sys2Proof/Laws/Exec.lean ====
section
/-! SUPPORT. The operations: what each can do, said once, and how a step takes a move. -/

namespace Sys2Proof.Machine

/-- R107: everything a `PROCESS` can do: fail at `bytes_available`, find nothing to read, fail at `read`, or read and
drain. -/
theorem processWith_cases (d : Draw) (s : State) :
    (d.availFails = true ∧ processWith d s = (s.betweenCalls d).raiseIoError) ∨
      (d.availFails = false ∧ (s.betweenCalls d).readSize s.transport.fifo.length = 0 ∧
        processWith d s = (s.betweenCalls d).drainAndRespond) ∨
      (d.availFails = false ∧ 0 < (s.betweenCalls d).readSize s.transport.fifo.length ∧
        processWith d s = (s.betweenCalls d).processRead d ((s.betweenCalls d).readSize s.transport.fifo.length)) := by
  unfold processWith Transport.bytesAvailable
  cases d.availFails with
  | true => simp
  | false =>
    unfold State.processAvailable
    by_cases h : 0 < (s.betweenCalls d).readSize s.transport.fifo.length
    · simp [h]
    · simp [Nat.eq_zero_of_not_pos h]

/-- R51, R107: everything the reading half of a `PROCESS` can do. -/
theorem State.processRead_cases (s : State) (d : Draw) (m : Nat) :
    (∃ lost, d.read = .fail lost ∧
        s.processRead d m = { s with transport := s.transport.afterRead d m }.raiseIoError) ∨
      (s.transport.readBytes d m = some (s.transport.fifo.take (s.transport.readCount d m)) ∧
        s.processRead d m = State.drainAndRespond
          { s with
            transport := s.transport.afterRead d m
            block := s.block.bufAppend (s.transport.fifo.take (s.transport.readCount d m)) }) := by
  cases h : s.transport.readBytes d m with
  | none =>
    obtain ⟨lost, hl⟩ := (s.transport.readBytes_eq_none_iff d m).1 h
    exact .inl ⟨lost, hl, by simp [State.processRead, h]⟩
  | some x =>
    have hx := (Transport.readBytes_eq_some h).1
    subst hx
    exact .inr ⟨rfl, by simp [State.processRead, h]⟩

/-- R107: what the draining half of a `PROCESS` leaves, part by part. -/
theorem State.drainAndRespond_eq (s : State) :
    s.drainAndRespond =
      { s with
        block := (drain s.cfg s.block).block
        obs :=
          { responses := s.obs.responses ++ [⟨.ok, 0⟩]
            events := s.obs.events ++ (drain s.cfg s.block).events
            trace := s.obs.trace ++ (drain s.cfg s.block).trace } } := rfl

theorem exec_process (s : State) : exec .process s = .next (processWith s.transport.nextDraw s) := rfl

theorem exec_register (p : Byte) (s : State) :
    exec (.register p) s = .next ({ s with block := { s.block with reg := regSet s.block.reg p } }.respondOk) := rfl

theorem exec_statsRead {i : Byte} {n : CtrName} (h : counterOf i = some n) (s : State) :
    exec (.statsRead i) s = .next (s.respond .ok (s.block.ctr.get n)) := by
  simp [exec, execStatsRead, h]

theorem exec_statsClear (s : State) :
    exec .statsClear s = .next ({ s with block := { s.block with ctr := Counters.zero } }.respondOk) := rfl

/-- The first move in line is taken and performed. -/
theorem step_of_moves {s : State} {m : Move} {rest : List Move} (h : s.moves = m :: rest) :
    step s = performMove m { s with moves := rest } := by
  simp [step, h, State.takeMove]

theorem step_of_no_moves {s : State} (h : s.moves = []) : step s = .next s := by
  simp [step, h]

/-- R79: a host word either decodes, and its instruction runs, or is illegal, and only a response follows. -/
theorem hostCommand_cases (w : Word) (s : State) :
    (∃ i, decode w = .ok i ∧ hostCommand w s = exec i s) ∨
      (∃ e, decode w = .error e ∧ hostCommand w s = .next s.raiseIllegal) := by
  cases h : decode w with
  | ok i => exact .inl ⟨i, rfl, by simp [hostCommand, h]⟩
  | error e => exact .inr ⟨e, rfl, by simp [hostCommand, h]⟩

end Sys2Proof.Machine
end

