-- ==== Sys2Proof/Laws/PerInstr.lean ====
section
/-! SUPPORT. A property of every instruction's word: its reserved field is zero (30_encoding.md R74). -/

namespace Sys2Proof.Laws

/-- R74: bits 7:4 of an instruction's word are zero. -/
def ReservedFieldZero.Statement (i : Instr) : Prop := cmdRsv (encode i) = 0#4

theorem ReservedFieldZero.process : ReservedFieldZero.Statement .process := cmdRsv_cmdWord _ _

theorem ReservedFieldZero.register (p : Byte) : ReservedFieldZero.Statement (.register p) := cmdRsv_cmdWord _ _

theorem ReservedFieldZero.statsRead (i : Byte) : ReservedFieldZero.Statement (.statsRead i) := cmdRsv_cmdWord _ _

theorem ReservedFieldZero.statsClear : ReservedFieldZero.Statement .statsClear := cmdRsv_cmdWord _ _

end Sys2Proof.Laws
end

