-- ==== Sys2Proof/Tests/Slice0.lean ====
section
/-! SUPPORT. Tests. Expected values come from the spec: 95_test_vectors.md (the vector is named) and the examples of
the rules. The `test_witness_` theorems show a state and operands that meet a statement's hypotheses, one for each of
its clauses, at boundary values. -/

namespace Sys2Proof.Tests

open Sys2Proof Sys2Proof.Machine

/-! ## Helpers -/

/-- 95 E-1: `F1 = Encode(7, "hi")` under P0. -/
def f1 : Bytes := [0xA5, 0x5A, 0x02, 0x07, 0x8F, 0xB2, 0x68, 0x69, 0xC3, 0x3C]

/-- P0 with the other tail rule. -/
def prefixConfig : Config := { toParams := { Params.P0 with syncTailRule := .keepIfPrefix }, ok := by decide }

/-- A block with the given state, buffer and registry. -/
def blockWith (st : RxState) (buf : Bytes) (reg : BitVec 256 := 0#256) : Block :=
  { Block.reset with st := st, buf := buf, reg := reg }

/-- A block that has accepted the header of the frame in its buffer. -/
def bodyWith (buf : Bytes) (reg : BitVec 256 := 0#256) : Block :=
  (rxStep Config.P0 (blockWith .awaitingHeader buf reg)).block

/-- A state under P0 with the given block, transport and moves. -/
def stateWith (b : Block) (fifo : Bytes := []) (draws : List Draw := []) (moves : List Move := []) : State :=
  { State.resetWith Config.P0 with block := b, transport := { fifo := fifo, draws := draws }, moves := moves }

/-- A draw whose `bytes_available` fails. -/
def failingDraw : Draw := { Draw.answering with availFails := true }

/-- The registry with port 7 set. -/
def reg7 : BitVec 256 := 128#256

/-- The next state, where there is one. -/
def nextOf (o : Host.Outcome State Fault Refusal) : Option State :=
  match o with
  | .next t => some t
  | .fault _ => none
  | .refused _ => none

/-! ## Well-formedness: each check refuses an ill-formed term -/

theorem test_wf_refuses_counter_index_7 : (Instr.statsRead 7#8).wf = false := by decide
theorem test_wf_accepts_counter_index_6 : (Instr.statsRead 6#8).wf = true := by decide
theorem test_config_refuses_equal_magics :
    Config.ofParams? { Params.P0 with tm := Params.P0.hm } = none := by decide
theorem test_config_refuses_payload_256 :
    Config.ofParams? { Params.P0 with maxPayload := 256, bufCap := 1000 } = none := by decide
theorem test_config_refuses_short_buffer : Config.ofParams? { Params.P0 with bufCap := 63 } = none := by decide
theorem test_config_refuses_zero_width : Config.ofParams? { Params.P0 with ctrW := 0 } = none := by decide
theorem test_config_accepts_boundary :
    (Config.ofParams? { Params.P0 with maxPayload := 255, bufCap := 263, ctrW := 1 }).isSome = true := by decide

/-! ## Decoding: words written out from the table of R75, and the vectors W of 95 -/

-- ARG 00000000, RSV 0000, OP 0001
theorem test_decode_process : decode 0b0000000000000001#16 = .ok .process := by decide
-- ARG 00000111, RSV 0000, OP 0010 (W-6)
theorem test_decode_register_7 : decode 0b0000011100000010#16 = .ok (.register 7#8) := by decide
-- ARG 00000110, RSV 0000, OP 0011 (W-10)
theorem test_decode_stats_read_6 : decode 0b0000011000000011#16 = .ok (.statsRead 6#8) := by decide
-- ARG 00000000, RSV 0000, OP 0100 (W-13)
theorem test_decode_stats_clear : decode 0b0000000000000100#16 = .ok .statsClear := by decide
-- W-1, W-3, W-4, W-8, W-11, W-12, W-14, W-15, W-16
theorem test_decode_illegal_words :
    ([0x0000#16, 0x0101#16, 0x0011#16, 0x00F2#16, 0x0703#16, 0xFF03#16, 0x0104#16, 0x0005#16, 0x000F#16,
        0xFFFF#16].map fun w => (decode w).toOption) = List.replicate 10 none := by decide
theorem test_decode_table_rows :
    decodeTableWord 16 0x0001 = some .process ∧ decodeTableWord 16 0x0002 = some (.register 0#8) ∧
      decodeTableWord 16 0x0003 = some (.statsRead 0#8) ∧ decodeTableWord 16 0x0004 = some .statsClear := by decide
-- 95 Program 2
theorem test_assembler_line :
    (parseLine "        STATS_READ trailer_err      ; 0x0503 -> (OK, 1)".toList).map
      (fun ls => ls.flatMap HostLine.moves) = some [.host 0x0503#16] := by decide
-- 95 Program 4: the abbreviation, and the line of bytes before it
theorem test_assembler_link_lines :
    (parseLine ".link 00 x 54               ; 54 filler bytes of 00".toList, parseLine ".link b2 68 69".toList) =
      (some [.link (List.replicate 54 0)], some [.link [0xB2, 0x68, 0x69]]) := by decide +kernel
theorem test_assembler_rejects_lower_case : parseLine "process".toList = none := by decide

/-! ## The codec: the vectors K and E of 95 -/

-- K-6
theorem test_crc_check_string :
    crc16 Config.P0 [0x31, 0x32, 0x33, 0x34, 0x35, 0x36, 0x37, 0x38, 0x39] = 0x4B37#16 := by decide +kernel
theorem test_crc_direct_check_string :
    crc16Direct Config.P0 [0x31, 0x32, 0x33, 0x34, 0x35, 0x36, 0x37, 0x38, 0x39] = 0x4B37#16 := by decide +kernel
-- E-1
theorem test_encode_f1 : encodeFrame Config.P0 7#8 [0x68, 0x69] = some f1 := by decide +kernel
-- E-6
theorem test_encode_equal_magics :
    encodeFrame Config.P1 1#8 [0x10, 0x20] =
      some [0xAA, 0xAA, 0x02, 0x01, 0xBB, 0x7E, 0x10, 0x20, 0x55, 0x55] := by decide +kernel

/-! ## The operations -/

-- H-1
theorem test_process_dispatches_f1 :
    (nextOf (exec .process (stateWith (blockWith .searchingSync [] reg7) f1))).map
        (fun t => (t.obs.events, t.obs.responses, t.transport.fifo)) =
      some ([⟨7#8, [0x68, 0x69]⟩], [⟨.ok, 0⟩], []) := by decide +kernel
-- H-3 (a)
theorem test_process_io_error_keeps_fifo :
    (nextOf (exec .process (stateWith Block.reset f1 [failingDraw]))).map
        (fun t => (t.obs.responses, t.transport.fifo, t.block)) =
      some ([⟨.ioError, 0⟩], f1, Block.reset) := by decide +kernel
-- R82: with another draw pending, and said twice, `.fail` fails the next call and no other
theorem test_fail_directive_fails_next_call_only :
    (((nextOf (step (stateWith Block.reset f1 [Draw.answering] (HostLine.fail.moves ++ HostLine.fail.moves)))).bind
          fun s => nextOf (step s)).bind fun s => (nextOf (exec .process s)).bind fun t =>
        (nextOf (exec .process t))).map (fun t => (t.obs.responses, t.transport.fifo)) =
      some ([⟨.ioError, 0⟩, ⟨.ok, 0⟩], []) := by decide +kernel
-- W-7
theorem test_register_255 :
    (nextOf (exec (.register 255#8) (stateWith Block.reset))).map
        (fun t => (regBit t.block.reg 255#8, regBit t.block.reg 254#8, t.obs.responses)) =
      some (true, false, [⟨.ok, 0⟩]) := by decide
-- The example of R112
theorem test_stats_read_1 :
    (nextOf (exec (.statsRead 1#8)
        (stateWith { Block.reset with ctr := { Counters.zero with rcvMsgs := 1, rcvBytes := 10 } }))).map
        (fun t => t.obs.responses) = some [⟨.ok, 10⟩] := by decide
-- R114
theorem test_stats_clear_keeps_buffer :
    (nextOf (exec .statsClear
        (stateWith { blockWith .awaitingHeader [0xA5, 0x5A] with
          ctr := { Counters.zero with crcErr := 3 } }))).map
        (fun t => t.block) = some (blockWith .awaitingHeader [0xA5, 0x5A]) := by decide
-- H-10, R135
theorem test_reset_keeps_fifo :
    (nextOf (step (stateWith (bodyWith f1 reg7) [0x68] [] [.reset]))).map (fun t => (t.block, t.transport.fifo)) =
      some (Block.reset, [0x68]) := by decide +kernel
theorem test_process_is_first_instruction_after_reset :
    step (State.reset.withFetchWord 16 0x0001) = exec .process State.reset := rfl

/-! ## Witnesses for the statements -/

theorem test_witness_decode_encode : (Instr.statsRead 6#8).wf = true ∧ encode (.statsRead 6#8) = 0x0603#16 := by
  decide
-- one word for each part of R77, at the boundaries
theorem test_witness_illegal_words :
    (∀ w ∈ [0x0000#16, 0x0005#16, 0x000F#16, 0x0011#16, 0x0101#16, 0x0104#16, 0x0703#16, 0xFF03#16], IllegalWord w) ∧
      ∀ w ∈ [0x0001#16, 0x0002#16, 0xFF02#16, 0x0603#16, 0x0004#16], ¬ IllegalWord w := by
  simp [IllegalWord]
theorem test_witness_illegal_step :
    (stateWith Block.reset [] [] [.host 0x0703#16]).moves = [.host 0x0703#16] ∧ IllegalWord 0x0703#16 := by decide
theorem test_witness_pseudo_range : (255#8).toNat ≤ (255#8).toNat ∧ (0#8).toNat ≤ (255#8).toNat := by decide
theorem test_witness_step_runs :
    (stateWith Block.reset [] [] [.host 0x0702#16]).moves = [.host 0x0702#16] ∧
      decode 0x0702#16 = .ok (.register 7#8) ∧ (Instr.register 7#8).wf = true := by decide
theorem test_witness_idle : (stateWith Block.reset).moves = [] := by decide
theorem test_witness_environment_moves :
    (stateWith Block.reset [] [] [.link f1]).moves = [.link f1] ∧
      (stateWith Block.reset [] [] [.transport failingDraw]).moves = [.transport failingDraw] ∧
      (stateWith Block.reset [] [] [.failNext]).moves = [.failNext] := by decide
-- one `.fail` and two, with a draw pending and with none
theorem test_witness_fail_directive :
    (stateWith Block.reset f1 [Draw.answering] [.failNext]).moves = HostLine.fail.moves ++ [] ∧
      (stateWith Block.reset f1 [] [.failNext, .failNext]).moves = HostLine.fail.moves ++ (HostLine.fail.moves ++ []) := by
  decide
theorem test_witness_reset : (stateWith (bodyWith f1) [] [] [.reset]).moves = [.reset] := by decide +kernel
theorem test_witness_configuration :
    (Params.P0.hm ≠ Params.P0.tm ∧ Params.P0.maxPayload ≤ 255 ∧ 6 + Params.P0.maxPayload + 2 ≤ Params.P0.bufCap ∧
        1 ≤ Params.P0.ctrW) ∧
      ¬ (6 + ({ Params.P0 with bufCap := 63 } : Params).maxPayload + 2 ≤
        ({ Params.P0 with bufCap := 63 } : Params).bufCap) := by decide
theorem test_witness_stats_read : [1, 10, 0, 0, 0, 0, 5][(0#8).toNat]? = some 1 ∧
    [1, 10, 0, 0, 0, 0, 5][(6#8).toNat]? = some 5 := by decide
theorem test_witness_stats_read_reserved : 7 ≤ (7#8).toNat ∧ 7 ≤ (255#8).toNat := by decide
theorem test_witness_process_answers :
    (stateWith Block.reset f1).transport.nextDraw.availFails = false ∧
      (stateWith Block.reset f1).transport.nextDraw.read.answers = true := by decide
theorem test_witness_process_short_read :
    (stateWith Block.reset f1 [{ Draw.answering with read := .upTo 3 }]).transport.nextDraw.availFails = false ∧
      (stateWith Block.reset f1 [{ Draw.answering with read := .upTo 3 }]).transport.nextDraw.read.answers = true ∧
      (ReadDraw.upTo 3).answerLength (stateWith Block.reset f1).readRequest = 3 := by decide
theorem test_witness_process_no_room :
    (stateWith (blockWith .searchingSync (List.replicate 256 0)) f1).readRequest = 0 ∧
      (stateWith Block.reset).readRequest = 0 := by decide +kernel
theorem test_witness_transport_fails :
    (stateWith Block.reset f1 [failingDraw]).transport.nextDraw.availFails = true ∧
      (stateWith Block.reset f1 [{ Draw.answering with read := .fail 4 }]).transport.nextDraw.availFails = false ∧
      (stateWith Block.reset f1 [{ Draw.answering with read := .fail 4 }]).transport.nextDraw.read = .fail 4 ∧
      0 < (stateWith Block.reset f1).readRequest := by decide
theorem test_witness_process_no_bytes :
    Block.reset.AtFixpoint Config.P0 ∧ (stateWith Block.reset).transport.nextDraw.availFails = false ∧
      (stateWith Block.reset).readRequest = 0 := by decide
-- R107: `n = 0` aside, a read that answers with no byte of a `T` that holds a frame
theorem test_witness_process_read_of_no_bytes :
    (stateWith Block.reset f1 [{ Draw.answering with read := .upTo 0 }]).transport.nextDraw.availFails = false ∧
      0 < (stateWith Block.reset f1).readRequest ∧ (ReadDraw.upTo 0).answers = true ∧
      (ReadDraw.upTo 0).answerLength (stateWith Block.reset f1).readRequest = 0 := by decide
theorem test_witness_short_buffers :
    (blockWith .searchingSync [0xA5]).buf.length < 2 ∧
      (blockWith .awaitingHeader (f1.take 5)).buf.length < 6 ∧
      (bodyWith (f1.take 9)).st = .awaitingBody ∧
      (bodyWith (f1.take 9)).buf.length < (bodyWith (f1.take 9)).fLen.toNat := by decide +kernel
-- the example of R93, and the magic at offset 0
theorem test_witness_scanner_found :
    MagicStands Config.P0.hm [0x11, 0xA5, 0x5A, 0x02] 1 ∧
      (∀ i < 1, ¬ MagicStands Config.P0.hm [0x11, 0xA5, 0x5A, 0x02] i) ∧ MagicStands Config.P0.hm [0xA5, 0x5A] 0 := by
  decide
-- the example of R94, under both tail rules, and S-6
theorem test_witness_scanner_none :
    (∀ i, ¬ MagicStands Config.P0.hm [0x11, 0x22, 0x33] i) ∧ Config.P0.syncTailRule = .keepLast :=
  ⟨findSync_eq_none_iff.1 (by decide), rfl⟩
theorem test_witness_scanner_none_prefix :
    (∀ i, ¬ MagicStands prefixConfig.hm [0x11, 0x22, 0xA5] i) ∧ prefixConfig.syncTailRule = .keepIfPrefix ∧
      (0xA5#8 = prefixConfig.hm.b0) ∧ (0x33#8 ≠ prefixConfig.hm.b0) :=
  ⟨findSync_eq_none_iff.1 (by decide), rfl, by decide, by decide⟩
theorem test_witness_header_sizes : Config.P0.maxPayload < (57#8).toNat ∧ (56#8).toNat ≤ Config.P0.maxPayload := by
  decide
-- the examples of R99, R100 and R101
theorem test_witness_trailer_mismatch :
    (bodyWith (f1.set 8 0)).st = .awaitingBody ∧ (bodyWith (f1.set 8 0)).fLen.toNat = 10 ∧
      (bodyWith (f1.set 8 0)).hSize = 2#8 ∧ (bodyWith (f1.set 8 0)).buf.length = 10 ∧
      ¬ MagicStands Config.P0.tm (f1.set 8 0) 8 := by decide +kernel
theorem test_witness_checksum_mismatch :
    (bodyWith (f1.set 6 0x69)).fLen.toNat = 10 ∧ MagicStands Config.P0.tm (f1.set 6 0x69) 8 ∧
      frameCrc Config.P0 ((bodyWith (f1.set 6 0x69)).buf.take 10) ≠ (bodyWith (f1.set 6 0x69)).hCrc := by
  decide +kernel
theorem test_witness_frame_validated :
    (bodyWith f1 reg7).fLen.toNat = 10 ∧ MagicStands Config.P0.tm f1 8 ∧
      frameCrc Config.P0 ((bodyWith f1 reg7).buf.take 10) = (bodyWith f1 reg7).hCrc ∧
      (bodyWith f1 reg7).reg.getLsbD (bodyWith f1 reg7).hPort.toNat = true ∧
      (bodyWith f1).reg.getLsbD (bodyWith f1).hPort.toNat = false := by decide +kernel
theorem test_witness_encoder :
    Config.P0.maxPayload < (List.replicate 57 0#8).length ∧ (List.replicate 56 0#8).length ≤ Config.P0.maxPayload := by
  decide
theorem test_witness_valid_frame : validFrame Config.P0 f1 = true := by decide +kernel
-- S-14, all at once
theorem test_witness_frame_behind_noise :
    Block.reset.st = .searchingSync ∧ Block.reset.buf = [] ∧
      ∀ i < [0x11#8].length, ¬ MagicStands Config.P0.hm ([0x11] ++ f1) i := by decide
theorem test_witness_invariant_in_body :
    (bodyWith (f1.take 9)).Inv Config.P0 ∧ (bodyWith (f1.take 9)).AtFixpoint Config.P0 := by decide +kernel
theorem test_witness_invariant_elsewhere :
    Block.reset.Inv Config.P0 ∧ Block.reset.AtFixpoint Config.P0 ∧
      (blockWith .awaitingHeader [0xA5, 0x5A]).Inv Config.P0 ∧
      (blockWith .awaitingHeader [0xA5, 0x5A]).AtFixpoint Config.P0 := by decide
theorem test_witness_chunking :
    Config.P0.syncTailRule = .keepLast ∧ Block.reset.Inv Config.P0 ∧ Block.reset.AtFixpoint Config.P0 ∧
      Block.reset.buf.length + (f1.take 1).length + (f1.drop 1).length ≤ Config.P0.bufCap := by decide
-- S-21
theorem test_witness_chunking_prefix :
    prefixConfig.syncTailRule = .keepIfPrefix ∧ Block.reset.Inv prefixConfig ∧ Block.reset.AtFixpoint prefixConfig ∧
      Block.reset.buf.length + [0xA5#8, 0x3C#8].length + [0xC3#8].length ≤ prefixConfig.bufCap := by decide
theorem test_witness_round_trip :
    encodeFrame Config.P0 7#8 [0x68, 0x69] = some f1 ∧ reg7.getLsbD (7#8).toNat = true ∧
      (0#256).getLsbD (7#8).toNat = false ∧ [0x68#8, 0x69#8].length + 8 < 2 ^ Config.P0.ctrW := by decide +kernel
theorem test_witness_accounting :
    Block.reset.Inv Config.P0 ∧
      exec .process (stateWith Block.reset) = .next (processWith Draw.answering (stateWith Block.reset)) :=
  ⟨by decide, rfl⟩
-- S-15
theorem test_witness_stale_header :
    (bodyWith [0xA5, 0x5A, 0x38, 0x01, 0x00, 0x00]).st = .awaitingBody ∧
      (bodyWith [0xA5, 0x5A, 0x38, 0x01, 0x00, 0x00]).buf.length + f1.length <
        (bodyWith [0xA5, 0x5A, 0x38, 0x01, 0x00, 0x00]).fLen.toNat := by decide +kernel
-- S-4
theorem test_witness_split_magic :
    ∀ i, ¬ MagicStands Config.P0.hm (Block.reset.buf ++ [0x11, 0x22] ++ [Config.P0.hm.b0]) i :=
  findSync_eq_none_iff.1 (by decide)
-- S-16
theorem test_witness_stray_byte :
    Config.P1.hm.b0 = Config.P1.hm.b1 ∧ Config.P1.maxPayload < Config.P1.hm.b0.toNat ∧
      validFrame Config.P1 [0xAA, 0xAA, 0x02, 0x01, 0xBB, 0x7E, 0x10, 0x20, 0x55, 0x55] = true := by decide +kernel
theorem test_witness_whole_machine_steps :
    (stateWith Block.reset [] [] [.host 0x0702#16]).moves = .host (encode (.register 7#8)) :: [] ∧
      (nextOf (step (stateWith Block.reset [] [] [.host 0x0702#16]))).isSome = true := by decide
theorem test_witness_state_invariant :
    (stateWith Block.reset f1 [] [.host 0x0001#16]).Inv ∧
      (nextOf (step (stateWith Block.reset f1 [] [.host 0x0001#16]))).isSome = true := by decide +kernel

end Sys2Proof.Tests
end

section
/-! The illegal command words and the pseudo-instructions (30_encoding.md R77, R81, R115). -/

namespace Sys2Proof.Machine

/-! ## Illegal words -/

theorem cmdOp_eq_iff (w : Word) (op : BitVec 4) : cmdOp w = op ↔ w.toNat % 16 = op.toNat := by
  rw [← BitVec.toNat_inj, toNat_cmdOp]

theorem cmdRsv_eq_zero_iff (w : Word) : cmdRsv w = 0#4 ↔ w.toNat / 16 % 16 = 0 := by
  simp [← BitVec.toNat_inj, toNat_cmdRsv]

theorem cmdArg_eq_zero_iff (w : Word) : cmdArg w = 0#8 ↔ w.toNat / 256 = 0 := by
  simp [← BitVec.toNat_inj, toNat_cmdArg]

/-- R77: the decoder's branches, read as conditions on the word's number, reject exactly the words of the list. -/
theorem exists_decode_error_iff (w : Word) : (∃ e, decode w = .error e) ↔ IllegalWord w := by
  simp only [decode, ne_eq, cmdRsv_eq_zero_iff, cmdOp_eq_iff, cmdArg_eq_zero_iff, toNat_cmdArg, BitVec.toNat_ofNat]
  split
  case isTrue hRsv => exact iff_of_true ⟨_, rfl⟩ (.inr (.inl hRsv))
  case isFalse hRsv =>
  split
  case isTrue hProcess =>
    split
    · exact iff_of_false (by simp) (by omega)
    · exact iff_of_true ⟨_, rfl⟩ (by omega)
  case isFalse hProcess =>
  split
  case isTrue hRegister => exact iff_of_false (by simp) (by omega)
  case isFalse hRegister =>
  split
  case isTrue hStatsRead =>
    split
    · exact iff_of_false (by simp) (by omega)
    · exact iff_of_true ⟨_, rfl⟩ (by omega)
  case isFalse hStatsRead =>
  split
  case isTrue hStatsClear =>
    split
    · exact iff_of_false (by simp) (by omega)
    · exact iff_of_true ⟨_, rfl⟩ (by omega)
  case isFalse hReservedOp => exact iff_of_true ⟨_, rfl⟩ (by omega)

/-- R115, R124: a step that issues a word the decoder rejects only answers `(ILLEGAL, 0)`. -/
theorem step_of_decode_error {s : State} {w : Word} {rest : List Move} {e : DecodeError}
    (hm : s.moves = .host w :: rest) (he : decode w = .error e) :
    step s = .next { s with moves := rest }.raiseIllegal := by
  rw [step_of_moves hm]
  simp [performMove, hostCommand, he]

/-- Settles O2: the decoder's errors are R77's list, and a rejected word is answered by `raiseIllegal` alone. -/
theorem illegalWordsAnswerIllegal : Obligations.IllegalWordsAnswerIllegal := by
  intro w
  refine ⟨exists_decode_error_iff w, fun s rest hIllegal hm => ?_⟩
  obtain ⟨e, he⟩ := (exists_decode_error_iff w).2 hIllegal
  exact step_of_decode_error hm he

/-! ## Pseudo-instructions -/

/-- R75: the word of `REGISTER p`, for a port given as a number; ports that agree modulo 256 give one word. -/
theorem encode_register_ofNat (p : Nat) :
    encode (.register (BitVec.ofNat 8 p)) = BitVec.ofNat 16 (p * 256 + 2) := by
  apply BitVec.eq_of_toNat_eq
  simp only [encode, toNat_cmdWord, BitVec.toNat_ofNat]
  omega

/-- R81: a range of registrations is one word for each port of the range, in order. -/
theorem HostLine.registerRange_moves (a b : Byte) :
    (HostLine.registerRange a b).moves =
      (List.range' a.toNat (b.toNat + 1 - a.toNat)).map fun p => .host (BitVec.ofNat 16 (p * 256 + 2)) := by
  simp [HostLine.moves, HostLine.instrs, registerRangeInstrs, encode_register_ofNat]

/-- Settles O4: `STATS_READ_ALL` is a fixed list of words; a range's words are read off `registerRange_moves`. -/
theorem pseudoInstructionsExpand : Obligations.PseudoInstructionsExpand := by
  refine ⟨rfl, fun a b hab => ?_⟩
  rw [HostLine.registerRange_moves]
  constructor
  · rw [List.length_map, List.length_range']
    omega
  · intro k hk
    have hlt : k < b.toNat + 1 - a.toNat := by omega
    simp [List.getElem?_range' hlt]

end Sys2Proof.Machine
end

section
/-! The receiver step, arm by arm (41_receiver_fsm.md R91 to R101): what each arm answers under its own guard, with
the block after it written out field by field. -/

namespace Sys2Proof.Machine

/-! ## One increment, counter by counter -/

section Increments

variable (x : Counters) (c : Config) (k : Nat)

theorem Counters.add_rcvMsgs : x.add c .rcvMsgs k = { x with rcvMsgs := wrapAdd c x.rcvMsgs k } := rfl
theorem Counters.add_rcvBytes : x.add c .rcvBytes k = { x with rcvBytes := wrapAdd c x.rcvBytes k } := rfl
theorem Counters.add_droppedBytes :
    x.add c .droppedBytes k = { x with droppedBytes := wrapAdd c x.droppedBytes k } := rfl
theorem Counters.add_crcErr : x.add c .crcErr k = { x with crcErr := wrapAdd c x.crcErr k } := rfl
theorem Counters.add_sizeErr : x.add c .sizeErr k = { x with sizeErr := wrapAdd c x.sizeErr k } := rfl
theorem Counters.add_trailerErr : x.add c .trailerErr k = { x with trailerErr := wrapAdd c x.trailerErr k } := rfl
theorem Counters.add_noReceiver : x.add c .noReceiver k = { x with noReceiver := wrapAdd c x.noReceiver k } := rfl

end Increments

/-! ## `SEARCHING_SYNC` -/

/-- R92: the search answers `k` exactly where the magic stands at `k` and at no lower offset. -/
theorem findSync_eq_some_iff {m : Magic} {s : Bytes} {k : Nat} :
    findSync m s = some k ↔ MagicStands m s k ∧ ∀ i < k, ¬ MagicStands m s i := by
  constructor
  · intro h
    obtain ⟨h0, h1, hleast⟩ := findSync_eq_some h
    exact ⟨⟨h0, h1⟩, hleast⟩
  · rintro ⟨hk, hleast⟩
    cases hj : findSync m s with
    | none => exact absurd hk (findSync_eq_none_iff.1 hj k)
    | some j =>
      obtain ⟨h0, h1, hleast'⟩ := findSync_eq_some hj
      have hkj : ¬ k < j := fun hlt => hleast' k hlt hk
      have hjk : ¬ j < k := fun hlt => hleast j hlt ⟨h0, h1⟩
      rw [show j = k by omega]

/-- A magic stands only where both its bytes are. -/
theorem MagicStands.lt_length {m : Magic} {s : Bytes} {i : Nat} (h : MagicStands m s i) : i + 1 < s.length :=
  (List.getElem?_eq_some_iff.1 h.2).1

theorem stepSearching_of_short (c : Config) {b : Block} (h : b.buf.length < magicW) :
    stepSearching c b = stepWait b := if_pos h

theorem stepSearching_of_findSync_eq_some {c : Config} {b : Block} {k : Nat} (h : findSync c.hm b.buf = some k) :
    stepSearching c b = stepSyncFound c b k := by
  have hk := (findSync_eq_some_iff.1 h).1.lt_length
  have hlen : ¬ b.buf.length < magicW := by simp only [magicW]; omega
  simp [stepSearching, hlen, h]

theorem stepSearching_of_findSync_eq_none {c : Config} {b : Block} (hlen : magicW ≤ b.buf.length)
    (h : findSync c.hm b.buf = none) : stepSearching c b = stepNosync c b := by
  simpa [Nat.not_lt.2 hlen, hlen, h] using stepSearching_cases c b

theorem stepSyncFound_zero (c : Config) (b : Block) :
    stepSyncFound c b 0 = { outcome := .syncHead, block := { b with st := .awaitingHeader }, event := none } := rfl

theorem stepSyncFound_of_pos (c : Config) (b : Block) {k : Nat} (h : 0 < k) :
    stepSyncFound c b k =
      { outcome := .syncSkip
        block :=
          { b with
            st := .awaitingHeader
            buf := b.buf.drop k
            ctr := { b.ctr with droppedBytes := wrapAdd c b.ctr.droppedBytes k } }
        event := none } := if_pos h

/-- Settles O20: the least offset is what the search answers, and the two cases are the two arms of R93. -/
theorem scannerStopsAtFirstMagic : Obligations.ScannerStopsAtFirstMagic := by
  intro c b k hst hk hleast
  have hstep : rxStep c b = stepSyncFound c b k :=
    (rxStep_searching hst).trans (stepSearching_of_findSync_eq_some (findSync_eq_some_iff.2 ⟨hk, hleast⟩))
  constructor
  · rintro rfl
    rw [hstep, stepSyncFound_zero]
  · intro hpos
    rw [hstep, stepSyncFound_of_pos c b hpos]

/-- R94: the last byte stays under `keep_last`, and where it can begin a magic. -/
theorem nosyncCount_of_keep {c : Config} {s : Bytes} {x : Byte} (h : c.syncTailRule = .keepLast ∨ x = c.hm.b0) :
    nosyncCount c (s ++ [x]) = s.length := by
  cases hr : c.syncTailRule with
  | keepLast => simp [nosyncCount, hr]
  | keepIfPrefix =>
    have hx : x = c.hm.b0 := h.resolve_left (by simp [hr])
    simp [nosyncCount, hr, byteAt, hx]

/-- R94: under `keep_if_prefix`, a last byte that cannot begin a magic goes with the others. -/
theorem nosyncCount_of_drop {c : Config} {s : Bytes} {x : Byte} (hr : c.syncTailRule = .keepIfPrefix)
    (hx : x ≠ c.hm.b0) : nosyncCount c (s ++ [x]) = s.length + 1 := by
  simp [nosyncCount, hr, byteAt, hx]

theorem stepNosync_eq (c : Config) (b : Block) {k : Nat} (h : nosyncCount c b.buf = k) :
    stepNosync c b =
      { outcome := .nosyncDrop
        block :=
          { b with
            buf := b.buf.drop k
            ctr := { b.ctr with droppedBytes := wrapAdd c b.ctr.droppedBytes k } }
        event := none } := by
  subst h
  rfl

/-- Settles O21: the scan finds nothing, and the tail rule decides whether the count is all bytes or all but one. -/
theorem scannerDropsWithoutMagic : Obligations.ScannerDropsWithoutMagic := by
  intro c b s x hst hbuf hs hnone
  have hpos : 0 < s.length := List.length_pos_iff.2 hs
  have hlen : magicW ≤ b.buf.length := by simp only [hbuf, List.length_append, List.length_singleton, magicW]; omega
  have hstep : rxStep c b = stepNosync c b :=
    (rxStep_searching hst).trans (stepSearching_of_findSync_eq_none hlen (findSync_eq_none_iff.2 hnone))
  constructor
  · intro hkeep
    have hcount : nosyncCount c b.buf = s.length := hbuf ▸ nosyncCount_of_keep hkeep
    rw [hstep, stepNosync_eq c b hcount, hbuf, List.drop_left]
  · rintro ⟨hr, hx⟩
    have hcount : nosyncCount c b.buf = s.length + 1 := hbuf ▸ nosyncCount_of_drop hr hx
    rw [hstep, stepNosync_eq c b hcount, hbuf, List.drop_of_length_le (by simp)]

/-! ## Too few bytes -/

theorem stepHeader_of_short (c : Config) {b : Block} (h : b.buf.length < hdrLen) : stepHeader c b = stepWait b :=
  if_pos h

theorem stepBody_of_short (c : Config) {b : Block} (h : b.buf.length < b.fLen.toNat) : stepBody c b = stepWait b :=
  if_pos h

/-- Settles O19: each state's first guard. -/
theorem shortBufferWaits : Obligations.ShortBufferWaits := by
  rintro c b (⟨hst, hshort⟩ | ⟨hst, hshort⟩ | ⟨hst, hshort⟩)
  · exact (rxStep_searching hst).trans (stepSearching_of_short c hshort)
  · exact (rxStep_header hst).trans (stepHeader_of_short c hshort)
  · exact (rxStep_body hst).trans (stepBody_of_short c hshort)

/-! ## `AWAITING_HEADER` -/

section Header

variable {c : Config} {b : Block} {m0 m1 size port lo hi : Byte} {rest : Bytes}

/-- R96, R97: what the scratch registers hold once the header at the buffer's head is captured. -/
theorem Block.captureHeader_of_buf (hbuf : b.buf = [m0, m1, size, port, lo, hi] ++ rest) :
    b.captureHeader = { b with hSize := size, hPort := port, hCrc := field16 lo hi } := by
  simp [Block.captureHeader, byteAt, hbuf]

theorem stepHeader_of_buf (hbuf : b.buf = [m0, m1, size, port, lo, hi] ++ rest) :
    stepHeader c b = stepHeaderCaptured c { b with hSize := size, hPort := port, hCrc := field16 lo hi } := by
  have hlen : ¬ b.buf.length < hdrLen := by simp [hbuf, hdrLen]
  rw [← Block.captureHeader_of_buf hbuf]
  exact if_neg hlen

end Header

theorem stepHeaderCaptured_of_oversized {c : Config} {b : Block} (h : c.maxPayload < b.hSize.toNat) :
    stepHeaderCaptured c b = { outcome := .errSize, block := b.takeError c .size, event := none } := if_pos h

theorem stepHeaderCaptured_of_fits {c : Config} {b : Block} (h : b.hSize.toNat ≤ c.maxPayload) :
    stepHeaderCaptured c b = { outcome := .hdrOk, block := b.setFrameLen.goto .awaitingBody, event := none } :=
  if_neg (Nat.not_lt.2 h)

/-- Settles O22: the header is captured, and its size sends the step into recovery. -/
theorem oversizedHeaderRecovers : Obligations.OversizedHeaderRecovers := by
  intro c b m0 m1 size port lo hi rest hst hbuf hsize
  rw [rxStep_header hst, stepHeader_of_buf hbuf, stepHeaderCaptured_of_oversized hsize,
    Block.takeError_eq _ c .size rfl, Counters.add_sizeErr, Counters.add_droppedBytes]
  simp [hbuf, magicW]

/-- Settles O23: the length is the one that `toNat_ofNat_frameLen` shows to fit the 9-bit register. -/
theorem acceptedHeaderFillsScratch : Obligations.AcceptedHeaderFillsScratch := by
  intro c b m0 m1 size port lo hi rest hst hbuf hsize
  refine ⟨BitVec.ofNat 9 (frameLen size), ?_, ?_⟩
  · rw [toNat_ofNat_frameLen]
    omega
  · rw [rxStep_header hst, stepHeader_of_buf hbuf, stepHeaderCaptured_of_fits hsize]
    rfl

/-! ## `AWAITING_BODY` -/

section Body

variable {c : Config} {b : Block}

/-- R99: with the whole frame buffered, the trailer test reads the two bytes where the trailer magic has to stand. -/
theorem magicAt_trailerOffset_iff (m : Magic) (hf : b.fLen.toNat = 6 + b.hSize.toNat + 2)
    (hlen : b.fLen.toNat ≤ b.buf.length) :
    magicAt m b.buf (trailerOffset b.hSize) = true ↔ MagicStands m b.buf (6 + b.hSize.toNat) := by
  have hwindow : trailerOffset b.hSize + 1 < b.buf.length := by simp only [trailerOffset, hdrLen]; omega
  exact magicAt_iff hwindow

theorem stepBody_of_trailer_mismatch (hlen : b.fLen.toNat ≤ b.buf.length)
    (ht : magicAt c.tm b.buf (trailerOffset b.hSize) = false) :
    stepBody c b = { outcome := .errTrailer, block := b.takeError c .trailer, event := none } := by
  simpa [Nat.not_lt.2 hlen, hlen, ht] using stepBody_cases c b

theorem stepBody_of_checksum_mismatch (hlen : b.fLen.toNat ≤ b.buf.length)
    (ht : magicAt c.tm b.buf (trailerOffset b.hSize) = true)
    (hcrc : frameCrc c (b.buf.take b.fLen.toNat) ≠ b.hCrc) :
    stepBody c b = { outcome := .errCrc, block := b.takeError c .crc, event := none } := by
  simpa [Nat.not_lt.2 hlen, hlen, ht, hcrc] using stepBody_cases c b

theorem stepBody_of_valid (hlen : b.fLen.toNat ≤ b.buf.length)
    (ht : magicAt c.tm b.buf (trailerOffset b.hSize) = true)
    (hcrc : frameCrc c (b.buf.take b.fLen.toNat) = b.hCrc) : stepBody c b = stepAccept c b := by
  simpa [Nat.not_lt.2 hlen, hlen, ht, hcrc] using stepBody_cases c b

/-- R101: the payload is the `size` bytes behind the header. -/
theorem payloadOf_eq (s : Bytes) (size : Byte) : payloadOf s size = (s.drop 6).take size.toNat := by
  simp [payloadOf, slice, hdrLen]

/-- R101: the counters of a validated frame. -/
theorem Block.countFrame_eq (b : Block) (c : Config) :
    b.countFrame c =
      { b with
        ctr :=
          { b.ctr with
            rcvMsgs := wrapAdd c b.ctr.rcvMsgs 1
            rcvBytes := wrapAdd c b.ctr.rcvBytes b.fLen.toNat } } := rfl

theorem stepAccept_of_registered (hreg : regBit b.reg b.hPort = true) :
    stepAccept c b =
      { outcome := .frameDispatched
        block := (b.countFrame c).consumeFrame
        event := some { port := b.hPort, payload := payloadOf b.buf b.hSize } } := by
  simpa [hreg] using stepAccept_cases c b

theorem stepAccept_of_unregistered (hreg : regBit b.reg b.hPort = false) :
    stepAccept c b =
      { outcome := .frameNoReceiver
        block := ((b.countFrame c).count c .noReceiver 1).consumeFrame
        event := none } := by
  simpa [hreg] using stepAccept_cases c b

end Body

/-- Settles O25: the trailer is the first check, so the checksum is not looked at. -/
theorem trailerMismatchRecovers : Obligations.TrailerMismatchRecovers := by
  intro c b hst hf hlen htrailer
  have ht : magicAt c.tm b.buf (trailerOffset b.hSize) = false :=
    Bool.eq_false_iff.2 fun h => htrailer ((magicAt_trailerOffset_iff c.tm hf hlen).1 h)
  rw [rxStep_body hst, stepBody_of_trailer_mismatch hlen ht, Block.takeError_eq b c .trailer rfl,
    Counters.add_trailerErr, Counters.add_droppedBytes, magicW]

/-- Settles O26: the trailer passes, and the checksum is the second check. -/
theorem checksumMismatchRecovers : Obligations.ChecksumMismatchRecovers := by
  intro c b hst hf hlen htrailer hcrc
  have ht := (magicAt_trailerOffset_iff c.tm hf hlen).2 htrailer
  rw [rxStep_body hst, stepBody_of_checksum_mismatch hlen ht hcrc, Block.takeError_eq b c .crc rfl,
    Counters.add_crcErr, Counters.add_droppedBytes, magicW]

/-- Settles O27: both checks pass, and the port's registry bit picks one of the two accepting arms. -/
theorem validatedFrameIsCountedAndConsumed : Obligations.ValidatedFrameIsCountedAndConsumed := by
  intro c b hst hf hlen htrailer hcrc
  have ht := (magicAt_trailerOffset_iff c.tm hf hlen).2 htrailer
  have hstep : rxStep c b = stepAccept c b := (rxStep_body hst).trans (stepBody_of_valid hlen ht hcrc)
  constructor
  · intro hreg
    rw [hstep, stepAccept_of_registered hreg, payloadOf_eq, Block.countFrame_eq]
    rfl
  · intro hreg
    rw [hstep, stepAccept_of_unregistered hreg, Block.countFrame_eq]
    rfl

end Sys2Proof.Machine
end

section
/-! `REGISTER`, `STATS_READ` and `STATS_CLEAR` (42_host_operations.md R111, R112, R114): each one's word and the whole
state after it. -/

namespace Sys2Proof.Machine

/-! ## The counter an index names -/

/-- R31, R76: the operand of `STATS_READ` and the order of the counters are one numbering. -/
theorem toNat_eq_index_of_counterOf {i : Byte} {n : CtrName} (h : counterOf i = some n) : i.toNat = n.index := by
  unfold counterOf at h
  split at h <;> cases h <;> assumption

/-- R31: the counters written out in the order of their indices. -/
theorem Counters.getElem?_index (x : Counters) (n : CtrName) :
    [x.rcvMsgs, x.rcvBytes, x.droppedBytes, x.crcErr, x.sizeErr, x.trailerErr, x.noReceiver][n.index]? =
      some (x.get n) := by
  cases n <;> rfl

/-- R34: every index below 7 names a counter. -/
theorem exists_counterOf_of_lt {i : Byte} (h : i.toNat < 7) : ∃ n, counterOf i = some n :=
  Option.ne_none_iff_exists'.1 fun hnone => Nat.not_le_of_lt h ((counterOf_eq_none_iff i).1 hnone)

/-! ## The operations -/

/-- R77: of the words of `STATS_READ`, the decoder takes those with an index below 7. -/
theorem decode_encode_statsRead (i : Byte) :
    decode (encode (.statsRead i)) = if i.toNat < 7 then .ok (.statsRead i) else .error .reservedIndex := by
  simp [decode, encode]

/-- Settles O11: the new registry is `regSet` of the old, and `regBit_regSet` reads each of its bits. -/
theorem registerSetsOnlyItsPort : Obligations.RegisterSetsOnlyItsPort := by
  intro p s
  have hword : (encode (.register p)).toNat = p.toNat * 256 + 2 := toNat_cmdWord p 0x2#4
  exact ⟨hword, regSet s.block.reg p, regBit_regSet s.block.reg p, exec_register p s⟩

/-- Settles O12: a value found in the list has an index below 7, so the index names a counter, and the list holds that
counter's value there. -/
theorem statsReadReturnsCounter : Obligations.StatsReadReturnsCounter := by
  intro i s
  refine ⟨toNat_cmdWord i 0x3#4, fun v hv => ?_, fun hlt => ?_, fun hge => ⟨.reservedIndex, ?_⟩⟩
  · have hlt : i.toNat < 7 := (List.getElem?_eq_some_iff.1 hv).1
    obtain ⟨n, hn⟩ := exists_counterOf_of_lt hlt
    rw [toNat_eq_index_of_counterOf hn, Counters.getElem?_index] at hv
    cases hv
    exact exec_statsRead hn s
  · rw [decode_encode_statsRead, if_pos hlt]
  · rw [decode_encode_statsRead, if_neg (Nat.not_lt.2 hge)]

/-- Settles O14: `Counters.zero` is the seven zeros, and the rest of the state is copied. -/
theorem statsClearZeroesOnlyCounters : Obligations.StatsClearZeroesOnlyCounters :=
  fun s => ⟨rfl, exec_statsClear s⟩

end Sys2Proof.Machine
end

section
/-! Reset (70_reset_and_hazards.md R135): the state after it, and why the receiver rests there. -/

namespace Sys2Proof.Machine

/-- R91, R135: the buffer of a reset block is too short for a magic, so the search waits. -/
theorem rxStep_reset (c : Config) : rxStep c Block.reset = stepWait Block.reset :=
  (rxStep_searching Block.reset_st).trans (stepSearching_of_short c (by decide))

/-- R135: a reset block is at a fixpoint, under every configuration. -/
theorem Block.reset_atFixpoint (c : Config) : Block.reset.AtFixpoint c :=
  congrArg StepResult.progress (rxStep_reset c)

/-- R135: a step that resets writes the block and uses up its move. -/
theorem step_of_reset {s : State} {rest : List Move} (hm : s.moves = .reset :: rest) :
    step s = .next { s with moves := rest, block := Block.reset } :=
  step_of_moves hm

/-- Settles O9: the receiver rests in the reset block, and that block's fields are the values of R42. -/
theorem resetRestoresBlock : Obligations.ResetRestoresBlock :=
  fun s _ hm => ⟨Block.reset_atFixpoint s.cfg, step_of_reset hm⟩

end Sys2Proof.Machine
end

section
/-! The command word (30_encoding.md R74 to R79): decoding inverts encoding, and the words written out in the table. -/

namespace Sys2Proof.Machine

/-- R75, R79: the decoder reads a well-formed instruction from its own word. -/
theorem decode_encode {i : Instr} (h : i.wf = true) : decode (encode i) = .ok i := by
  cases i with
  | process => rfl
  | register p => simp [decode, encode]
  | statsRead i =>
    have hi : i.toNat < 7 := of_decide_eq_true h
    rw [decode_encode_statsRead, if_pos hi]
  | statsClear => rfl

/-- R74: a word with a zero reserved field is the word of any argument and operation code that its fields hold. -/
theorem cmdWord_eq_of_fields {w : Word} {a : Byte} {op : BitVec 4} (hRsv : cmdRsv w = 0#4) (hOp : cmdOp w = op)
    (hArg : cmdArg w = a) : cmdWord a op = w := by
  rw [← hOp, ← hArg, cmdWord_fields hRsv]

/-- R77, R79: what the decoder reads is well-formed, and the word is its encoding. -/
theorem wf_and_encode_of_decode {w : Word} {i : Instr} (h : decode w = .ok i) : i.wf = true ∧ encode i = w := by
  unfold decode at h
  split at h
  case isTrue => cases h
  case isFalse hRsv =>
  have hRsv : cmdRsv w = 0#4 := not_not.1 hRsv
  split at h
  case isTrue hProcess =>
    split at h
    case isTrue hArg => cases h; exact ⟨rfl, cmdWord_eq_of_fields hRsv hProcess hArg⟩
    case isFalse => cases h
  case isFalse =>
  split at h
  case isTrue hRegister => cases h; exact ⟨rfl, cmdWord_eq_of_fields hRsv hRegister rfl⟩
  case isFalse =>
  split at h
  case isTrue hStatsRead =>
    split at h
    case isTrue hIndex => cases h; exact ⟨decide_eq_true hIndex, cmdWord_eq_of_fields hRsv hStatsRead rfl⟩
    case isFalse => cases h
  case isFalse =>
  split at h
  case isTrue hStatsClear =>
    split at h
    case isTrue hArg => cases h; exact ⟨rfl, cmdWord_eq_of_fields hRsv hStatsClear hArg⟩
    case isFalse => cases h
  case isFalse => cases h

/-- Settles O1: each accepting branch of the decoder fixes the fields of the word, and the fields make the word. -/
theorem decodingInvertsEncoding : Obligations.DecodingInvertsEncoding :=
  fun _ _ => ⟨wf_and_encode_of_decode, fun ⟨hwf, hw⟩ => hw ▸ decode_encode hwf⟩

/-- Settles O3: each word of the table is the encoding of its instruction. -/
theorem tableWordsDecode : Obligations.TableWordsDecode :=
  ⟨decode_encode (i := .process) rfl, decode_encode (i := .register 7#8) rfl,
    decode_encode (i := .register 255#8) rfl, decode_encode (i := .statsRead 0#8) rfl,
    decode_encode (i := .statsRead 6#8) rfl, decode_encode (i := .statsClear) rfl⟩

/-- Settles O13: an index of 7 or more names no counter, and its word is rejected for its index. -/
theorem statsReadReservedIndexIsIllegal : Obligations.StatsReadReservedIndexIsIllegal := by
  intro i s hi
  constructor
  · have hnone : counterOf i = none := (counterOf_eq_none_iff i).2 hi
    simp only [exec, execStatsRead, hnone]
    rfl
  · rw [decode_encode_statsRead, if_neg (Nat.not_lt.2 hi)]

end Sys2Proof.Machine
end

section
/-! The receiver step as a relation (41_receiver_fsm.md R90 to R101): one arm for each outcome code of R119, with the
arm's guard. `rxStep_arm` and `RxArm.rxStep_eq` tie the relation to `rxStep`; the lemmas after them say once what every
arm leaves unchanged, counts and keeps. -/

namespace Sys2Proof.Machine

/-- R91, R95, R98: how many bytes a step waits for. -/
def Block.window (b : Block) : Nat :=
  match b.st with
  | .searchingSync => magicW
  | .awaitingHeader => hdrLen
  | .awaitingBody => b.fLen.toNat

theorem Block.window_of_searching {b : Block} (h : b.st = .searchingSync) : b.window = magicW := by
  simp [Block.window, h]

theorem Block.window_of_header {b : Block} (h : b.st = .awaitingHeader) : b.window = hdrLen := by
  simp [Block.window, h]

theorem Block.window_of_body {b : Block} (h : b.st = .awaitingBody) : b.window = b.fLen.toNat := by
  simp [Block.window, h]

/-- What one step can answer, arm by arm, under the arm's guard. -/
inductive RxArm (c : Config) (b : Block) : StepResult → Prop where
  /-- R91, R95, R98. -/
  | wait (hshort : b.buf.length < b.window) : RxArm c b { outcome := .wait, block := b, event := none }
  /-- R93. -/
  | syncHead (hst : b.st = .searchingSync) (hk : findSync c.hm b.buf = some 0) :
      RxArm c b { outcome := .syncHead, block := b.goto .awaitingHeader, event := none }
  /-- R93. -/
  | syncSkip (k : Nat) (hst : b.st = .searchingSync) (hpos : 0 < k) (hk : findSync c.hm b.buf = some k) :
      RxArm c b
        { outcome := .syncSkip
          block := ((b.count c .droppedBytes k).bufDrop k).goto .awaitingHeader
          event := none }
  /-- R94. -/
  | nosyncDrop (hst : b.st = .searchingSync) (hlen : magicW ≤ b.buf.length) (hnone : findSync c.hm b.buf = none) :
      RxArm c b
        { outcome := .nosyncDrop
          block := (b.count c .droppedBytes (nosyncCount c b.buf)).bufDrop (nosyncCount c b.buf)
          event := none }
  /-- R97. -/
  | hdrOk (hst : b.st = .awaitingHeader) (hlen : hdrLen ≤ b.buf.length)
      (hsize : (byteAt b.buf 2).toNat ≤ c.maxPayload) :
      RxArm c b { outcome := .hdrOk, block := b.captureHeader.setFrameLen.goto .awaitingBody, event := none }
  /-- R96. -/
  | errSize (hst : b.st = .awaitingHeader) (hlen : hdrLen ≤ b.buf.length)
      (hsize : c.maxPayload < (byteAt b.buf 2).toNat) :
      RxArm c b { outcome := .errSize, block := b.captureHeader.takeError c .size, event := none }
  /-- R99. -/
  | errTrailer (hst : b.st = .awaitingBody) (hlen : b.fLen.toNat ≤ b.buf.length)
      (ht : magicAt c.tm b.buf (trailerOffset b.hSize) = false) :
      RxArm c b { outcome := .errTrailer, block := b.takeError c .trailer, event := none }
  /-- R100. -/
  | errCrc (hst : b.st = .awaitingBody) (hlen : b.fLen.toNat ≤ b.buf.length)
      (ht : magicAt c.tm b.buf (trailerOffset b.hSize) = true)
      (hcrc : frameCrc c (b.buf.take b.fLen.toNat) ≠ b.hCrc) :
      RxArm c b { outcome := .errCrc, block := b.takeError c .crc, event := none }
  /-- R101. -/
  | frameDispatched (hst : b.st = .awaitingBody) (hlen : b.fLen.toNat ≤ b.buf.length)
      (ht : magicAt c.tm b.buf (trailerOffset b.hSize) = true)
      (hcrc : frameCrc c (b.buf.take b.fLen.toNat) = b.hCrc) (hreg : regBit b.reg b.hPort = true) :
      RxArm c b
        { outcome := .frameDispatched
          block := (b.countFrame c).consumeFrame
          event := some { port := b.hPort, payload := payloadOf b.buf b.hSize } }
  /-- R101. -/
  | frameNoReceiver (hst : b.st = .awaitingBody) (hlen : b.fLen.toNat ≤ b.buf.length)
      (ht : magicAt c.tm b.buf (trailerOffset b.hSize) = true)
      (hcrc : frameCrc c (b.buf.take b.fLen.toNat) = b.hCrc) (hreg : regBit b.reg b.hPort = false) :
      RxArm c b
        { outcome := .frameNoReceiver
          block := ((b.countFrame c).count c .noReceiver 1).consumeFrame
          event := none }

section Arms

variable {c : Config} {b : Block} {r : StepResult}

theorem stepSearching_arm (hst : b.st = .searchingSync) : RxArm c b (stepSearching c b) := by
  rcases stepSearching_cases c b with ⟨hshort, h⟩ | ⟨k, -, hk, h⟩ | ⟨hlen, hnone, h⟩
  · rw [h]
    exact .wait (by rwa [Block.window_of_searching hst])
  · rw [h]
    rcases Nat.eq_zero_or_pos k with rfl | hpos
    · exact .syncHead hst hk
    · rw [stepSyncFound, if_pos hpos]
      exact .syncSkip k hst hpos hk
  · rw [h]
    exact .nosyncDrop hst hlen hnone

theorem stepHeader_arm (hst : b.st = .awaitingHeader) : RxArm c b (stepHeader c b) := by
  rcases stepHeader_cases c b with ⟨hshort, h⟩ | ⟨hlen, hsize, h⟩ | ⟨hlen, hsize, h⟩
  · rw [h]
    exact .wait (by rwa [Block.window_of_header hst])
  · rw [h]
    exact .errSize hst hlen hsize
  · rw [h]
    exact .hdrOk hst hlen hsize

theorem stepBody_arm (hst : b.st = .awaitingBody) : RxArm c b (stepBody c b) := by
  rcases stepBody_cases c b with ⟨hshort, h⟩ | ⟨hlen, ht, h⟩ | ⟨hlen, ht, hcrc, h⟩ | ⟨hlen, ht, hcrc, h⟩
  · rw [h]
    exact .wait (by rwa [Block.window_of_body hst])
  · rw [h]
    exact .errTrailer hst hlen ht
  · rw [h]
    exact .errCrc hst hlen ht hcrc
  · rw [h]
    rcases stepAccept_cases c b with ⟨hreg, h'⟩ | ⟨hreg, h'⟩
    · rw [h']
      exact .frameDispatched hst hlen ht hcrc hreg
    · rw [h']
      exact .frameNoReceiver hst hlen ht hcrc hreg

/-- R90: every step is one of the arms. -/
theorem rxStep_arm (c : Config) (b : Block) : RxArm c b (rxStep c b) := by
  cases hst : b.st with
  | searchingSync => exact rxStep_searching hst ▸ stepSearching_arm hst
  | awaitingHeader => exact rxStep_header hst ▸ stepHeader_arm hst
  | awaitingBody => exact rxStep_body hst ▸ stepBody_arm hst

theorem rxStep_of_short (hshort : b.buf.length < b.window) : rxStep c b = stepWait b := by
  cases hst : b.st with
  | searchingSync =>
    exact (rxStep_searching hst).trans (stepSearching_of_short c (Block.window_of_searching hst ▸ hshort))
  | awaitingHeader =>
    exact (rxStep_header hst).trans (stepHeader_of_short c (Block.window_of_header hst ▸ hshort))
  | awaitingBody => exact (rxStep_body hst).trans (stepBody_of_short c (Block.window_of_body hst ▸ hshort))

/-- R90: the guards exclude each other, so an arm whose guard holds is what the step answers. -/
theorem RxArm.rxStep_eq (h : RxArm c b r) : rxStep c b = r := by
  cases h with
  | wait hshort => exact rxStep_of_short hshort
  | syncHead hst hk => exact (rxStep_searching hst).trans (stepSearching_of_findSync_eq_some hk)
  | syncSkip k hst hpos hk =>
    exact (rxStep_searching hst).trans ((stepSearching_of_findSync_eq_some hk).trans (if_pos hpos))
  | nosyncDrop hst hlen hnone => exact (rxStep_searching hst).trans (stepSearching_of_findSync_eq_none hlen hnone)
  | hdrOk hst hlen hsize =>
    have hcaptured := stepHeaderCaptured_of_fits (c := c) (b := b.captureHeader) hsize
    exact (rxStep_header hst).trans ((if_neg (Nat.not_lt.2 hlen)).trans hcaptured)
  | errSize hst hlen hsize =>
    have hcaptured := stepHeaderCaptured_of_oversized (c := c) (b := b.captureHeader) hsize
    exact (rxStep_header hst).trans ((if_neg (Nat.not_lt.2 hlen)).trans hcaptured)
  | errTrailer hst hlen ht => exact (rxStep_body hst).trans (stepBody_of_trailer_mismatch hlen ht)
  | errCrc hst hlen ht hcrc => exact (rxStep_body hst).trans (stepBody_of_checksum_mismatch hlen ht hcrc)
  | frameDispatched hst hlen ht hcrc hreg =>
    exact (rxStep_body hst).trans ((stepBody_of_valid hlen ht hcrc).trans (stepAccept_of_registered hreg))
  | frameNoReceiver hst hlen ht hcrc hreg =>
    exact (rxStep_body hst).trans ((stepBody_of_valid hlen ht hcrc).trans (stepAccept_of_unregistered hreg))

/-- R24: a block is at a fixpoint exactly when fewer bytes are buffered than its step waits for. -/
theorem Block.atFixpoint_iff : b.AtFixpoint c ↔ b.buf.length < b.window := by
  constructor
  · intro hfix
    have harm := rxStep_arm c b
    unfold Block.AtFixpoint at hfix
    generalize rxStep c b = r at harm hfix
    cases harm with
    | wait hshort => exact hshort
    | _ => cases hfix
  · intro hshort
    exact congrArg StepResult.progress (rxStep_of_short hshort)

/-- R23, R24: at a fixpoint a step changes nothing. -/
theorem rxStep_of_atFixpoint (h : b.AtFixpoint c) : rxStep c b = stepWait b :=
  rxStep_of_short (Block.atFixpoint_iff.1 h)

end Arms

/-! ## What recovery leaves, whatever the cause -/

section Recovery

variable (b : Block) (c : Config) (e : Cause)

@[simp] theorem Block.takeError_st : (b.takeError c e).st = .searchingSync := rfl
@[simp] theorem Block.takeError_buf : (b.takeError c e).buf = b.buf.drop magicW := by cases e <;> rfl

theorem Block.takeError_ctr {n : CtrName} (h : e.counter? = some n) :
    (b.takeError c e).ctr = (b.ctr.add c n 1).add c .droppedBytes magicW := by
  rw [Block.takeError_eq b c e h]

end Recovery

/-! ## What each arm counts -/

section Counting

variable {c : Config} {b : Block} {r : StepResult}

/-- R118, R119, R121: the statement of O28, of an arm. -/
theorem RxArm.counts_outcome (h : RxArm c b r) :
    r.block.ctr.sizeErr = (if r.outcome = .errSize then wrapAdd c b.ctr.sizeErr 1 else b.ctr.sizeErr) ∧
      r.block.ctr.trailerErr = (if r.outcome = .errTrailer then wrapAdd c b.ctr.trailerErr 1 else b.ctr.trailerErr) ∧
      r.block.ctr.crcErr = (if r.outcome = .errCrc then wrapAdd c b.ctr.crcErr 1 else b.ctr.crcErr) ∧
      r.block.ctr.noReceiver =
        (if r.outcome = .frameNoReceiver then wrapAdd c b.ctr.noReceiver 1 else b.ctr.noReceiver) ∧
      r.block.ctr.rcvMsgs =
        (if r.outcome = .frameDispatched ∨ r.outcome = .frameNoReceiver then wrapAdd c b.ctr.rcvMsgs 1
          else b.ctr.rcvMsgs) ∧
      (r.event.isSome = true ↔ r.outcome = .frameDispatched) := by
  cases h with
  | wait | syncHead | hdrOk => simp
  | syncSkip | nosyncDrop => simp [Counters.add_droppedBytes]
  | errSize =>
    simp [Block.takeError_ctr _ c .size rfl, Counters.add_sizeErr, Counters.add_droppedBytes]
  | errTrailer =>
    simp [Block.takeError_ctr _ c .trailer rfl, Counters.add_trailerErr, Counters.add_droppedBytes]
  | errCrc =>
    simp [Block.takeError_ctr _ c .crc rfl, Counters.add_crcErr, Counters.add_droppedBytes]
  | frameDispatched => simp [Counters.add_rcvMsgs, Counters.add_rcvBytes]
  | frameNoReceiver => simp [Counters.add_rcvMsgs, Counters.add_rcvBytes, Counters.add_noReceiver]

/-- Settles O28: each arm counts what its outcome names. -/
theorem stepCountsItsOutcomeOnly : Obligations.StepCountsItsOutcomeOnly :=
  fun c b => (rxStep_arm c b).counts_outcome

/-- R33: every counter is a `CTR_W`-bit value, name by name. -/
theorem Counters.bounded_iff {x : Counters} {c : Config} : x.Bounded c ↔ ∀ n, x.get n < 2 ^ c.ctrW := by
  constructor
  · rintro ⟨hMsgs, hBytes, hDropped, hCrc, hSize, hTrailer, hNone⟩ n
    cases n <;> assumption
  · intro h
    exact ⟨h .rcvMsgs, h .rcvBytes, h .droppedBytes, h .crcErr, h .sizeErr, h .trailerErr, h .noReceiver⟩

theorem Counters.Bounded.add {x : Counters} (hx : x.Bounded c) (n : CtrName) (k : Nat) : (x.add c n k).Bounded c :=
  Counters.bounded_iff.2 fun m => Counters.get_add_lt x c n m k (Counters.bounded_iff.1 hx m)

/-- R33: a step keeps the counters in their width. -/
theorem RxArm.bounded (h : RxArm c b r) (hb : b.ctr.Bounded c) : r.block.ctr.Bounded c := by
  cases h with
  | wait | syncHead | hdrOk => exact hb
  | syncSkip | nosyncDrop => exact hb.add _ _
  | errSize => exact (hb.add .sizeErr 1).add .droppedBytes magicW
  | errTrailer => exact (hb.add .trailerErr 1).add .droppedBytes magicW
  | errCrc => exact (hb.add .crcErr 1).add .droppedBytes magicW
  | frameDispatched => exact (hb.add .rcvMsgs 1).add .rcvBytes b.fLen.toNat
  | frameNoReceiver => exact ((hb.add .rcvMsgs 1).add .rcvBytes b.fLen.toNat).add .noReceiver 1

/-- R36: no step writes the registry. -/
theorem RxArm.reg_eq (h : RxArm c b r) : r.block.reg = b.reg := by
  cases h with
  | wait | syncHead | syncSkip | nosyncDrop | hdrOk => rfl
  | errSize | errTrailer | errCrc | frameDispatched | frameNoReceiver => rfl

/-- R101: an event is for a registered port, and its payload is at most as long as the captured size. -/
theorem RxArm.event_eq_some {e : Dispatch} (h : RxArm c b r) (he : r.event = some e) :
    b.st = .awaitingBody ∧ regBit b.reg e.port = true ∧ e.payload.length ≤ b.hSize.toNat := by
  cases h with
  | frameDispatched hst hlen ht hcrc hreg =>
    cases he
    exact ⟨hst, hreg, length_payloadOf_le b.buf b.hSize⟩
  | _ => cases he

end Counting

end Sys2Proof.Machine
end

section
/-! The invariants of the block (10_state.md R39, R40) under one step and under an append, and the bytes that a step
accounts for (R28, R31). -/

namespace Sys2Proof

/-! ## The configuration's own check -/

/-- R138: what every configuration meets. -/
theorem Config.wf (c : Config) : c.toParams.WF := of_decide_eq_true c.ok

theorem Config.maxPayload_le (c : Config) : c.maxPayload ≤ 255 := by
  obtain ⟨-, hpayload, -, -⟩ := c.wf
  exact hpayload

theorem Config.maxFrame_le_bufCap (c : Config) : c.maxFrame ≤ c.bufCap := by
  obtain ⟨-, -, hcap, -⟩ := c.wf
  exact hcap

theorem Config.one_lt_two_pow_ctrW (c : Config) : 1 < 2 ^ c.ctrW := by
  obtain ⟨-, -, -, hwidth⟩ := c.wf
  exact Nat.one_lt_two_pow (Nat.ne_of_gt hwidth)

end Sys2Proof

namespace Sys2Proof.Machine

/-! ## The invariants -/

section Invariants

variable {c : Config} {b : Block} {r : StepResult}

/-- The part of R39 (I2) that progress depends on: the awaited length is the declared size's. -/
def Block.FrameLenInv (b : Block) : Prop := b.st = .awaitingBody → b.fLen.toNat = 8 + b.hSize.toNat

theorem Block.FrameLenInv.of_ne_body (h : b.st ≠ .awaitingBody) : b.FrameLenInv := fun hst => absurd hst h

theorem Block.Inv.frameLenInv (h : b.Inv c) : b.FrameLenInv := by
  intro hst
  obtain ⟨-, hbody, -⟩ := h
  obtain ⟨-, -, -, -, -, hf⟩ := hbody hst
  rw [hf, hdrLen, trlLen]
  omega

theorem Block.Inv.length_le (h : b.Inv c) : b.buf.length ≤ c.bufCap := by
  obtain ⟨-, -, hcap⟩ := h
  exact hcap

/-- In `SEARCHING_SYNC` only the capacity is left to keep. -/
theorem Block.inv_of_searching (hst : b.st = .searchingSync) (hcap : b.buf.length ≤ c.bufCap) : b.Inv c :=
  ⟨fun h => absurd hst h, fun h => by simp [hst] at h, hcap⟩

theorem Block.inv_of_header (hst : b.st = .awaitingHeader) (hm : MagicStands c.hm b.buf 0)
    (hcap : b.buf.length ≤ c.bufCap) : b.Inv c :=
  ⟨fun _ => ⟨hm.lt_length, hm⟩, fun h => by simp [hst] at h, hcap⟩

theorem MagicStands.drop {m : Magic} {s : Bytes} {k : Nat} (h : MagicStands m s k) : MagicStands m (s.drop k) 0 := by
  simpa [MagicStands] using h

/-- R97: the scratch registers that an accepted header leaves are the header at the buffer's head. -/
theorem Block.BodyInv.of_captured (hlen : hdrLen ≤ b.buf.length) (hsize : (byteAt b.buf 2).toNat ≤ c.maxPayload) :
    (b.captureHeader.setFrameLen.goto .awaitingBody).BodyInv c := by
  intro _
  simp only [hdrLen] at hlen
  refine ⟨hlen, getElem?_byteAt (by simp; omega), hsize, getElem?_byteAt (by simp; omega), ?_, ?_⟩
  · simp [byteAt, show 4 < b.buf.length by omega, show 5 < b.buf.length by omega]
  · simp only [Block.goto_fLen, Block.setFrameLen_fLen, toNat_ofNat_frameLen]
    simp only [Block.goto_hSize, Block.setFrameLen_hSize, hdrLen, trlLen]
    omega

/-- R39: every arm keeps the three invariants. -/
theorem RxArm.inv (h : RxArm c b r) (hb : b.Inv c) : r.block.Inv c := by
  have hdrop : ∀ k, (b.buf.drop k).length ≤ c.bufCap := fun k => by
    have := hb.length_le
    rw [List.length_drop]
    omega
  cases h with
  | wait => exact hb
  | syncHead hst hk => exact Block.inv_of_header rfl (findSync_eq_some_iff.1 hk).1 hb.length_le
  | syncSkip k hst hpos hk => exact Block.inv_of_header rfl (findSync_eq_some_iff.1 hk).1.drop (hdrop k)
  | nosyncDrop hst => exact Block.inv_of_searching hst (hdrop _)
  | hdrOk hst hlen hsize =>
    obtain ⟨hhead, -, hcap⟩ := hb
    exact ⟨fun _ => hhead (by simp [hst]), Block.BodyInv.of_captured hlen hsize, hcap⟩
  | errSize | errTrailer | errCrc =>
    exact Block.inv_of_searching (Block.takeError_st ..) (by rw [Block.takeError_buf]; exact hdrop _)
  | frameDispatched | frameNoReceiver => exact Block.inv_of_searching rfl (hdrop _)

/-- Settles O38: a step is one of the arms. -/
theorem receiverStepKeepsInvariants : Obligations.ReceiverStepKeepsInvariants :=
  fun c b hb => (rxStep_arm c b).inv hb

/-- R97, R39: after a step that makes progress the awaited length is right, whatever it was before. -/
theorem RxArm.frameLenInv (h : RxArm c b r) (hp : r.progress = true) : r.block.FrameLenInv := by
  cases h with
  | wait => cases hp
  | syncHead | syncSkip => exact .of_ne_body (by simp)
  | nosyncDrop hst => exact .of_ne_body (by simp [hst])
  | hdrOk => exact fun _ => toNat_ofNat_frameLen _
  | errSize | errTrailer | errCrc => exact .of_ne_body (by simp)
  | frameDispatched | frameNoReceiver => exact .of_ne_body (by simp)

/-- R39: what is appended within the capacity disturbs none of the invariants. -/
theorem Block.Inv.bufAppend (h : b.Inv c) {s : Bytes} (hcap : b.buf.length + s.length ≤ c.bufCap) :
    (b.bufAppend s).Inv c := by
  obtain ⟨hhead, hbody, -⟩ := h
  refine ⟨fun hst => ?_, fun hst => ?_, by simpa using hcap⟩
  · obtain ⟨hlen, h0, h1⟩ := hhead hst
    simp only [magicW] at hlen
    simp only [bufAppend_buf, List.length_append]
    rw [List.getElem?_append_left (by omega), List.getElem?_append_left (by omega)]
    exact ⟨by simp only [magicW]; omega, h0, h1⟩
  · obtain ⟨hlen, h2, hsize, h3, hcrc, hf⟩ := hbody hst
    have hlen' : 6 ≤ b.buf.length := hlen
    refine ⟨by simp only [bufAppend_buf, List.length_append]; omega, ?_, hsize, ?_, ?_, hf⟩
    · rwa [bufAppend_buf, List.getElem?_append_left (by omega)]
    · rwa [bufAppend_buf, List.getElem?_append_left (by omega)]
    · rw [bufAppend_buf, List.getD_append _ _ _ _ (by omega), List.getD_append _ _ _ _ (by omega)]
      exact hcrc

/-- R40: in each state, what the invariants say of the lengths and that the window is not full. -/
theorem Block.Inv.restBounds (hb : b.Inv c) (hfix : b.AtFixpoint c) : b.RestBounds := by
  have hshort := Block.atFixpoint_iff.1 hfix
  obtain ⟨hhead, hbody, -⟩ := hb
  refine ⟨fun hst => ?_, fun hst => ?_, fun hst => ?_⟩
  · rw [Block.window_of_searching hst] at hshort
    omega
  · rw [Block.window_of_header hst] at hshort
    obtain ⟨hlen, -⟩ := hhead (by simp [hst])
    omega
  · rw [Block.window_of_body hst] at hshort
    obtain ⟨hlen, -⟩ := hbody hst
    omega

/-- R12, R40: a full window is a frame at most. -/
theorem Block.Inv.window_le_maxFrame (hb : b.Inv c) : b.window ≤ c.maxFrame := by
  cases hst : b.st with
  | searchingSync => simp only [Block.window_of_searching hst, magicW, Params.maxFrame, hdrLen]; omega
  | awaitingHeader => simp only [Block.window_of_header hst, Params.maxFrame, hdrLen]; omega
  | awaitingBody =>
    obtain ⟨-, hbody, -⟩ := hb
    obtain ⟨-, -, hsize, -, -, hf⟩ := hbody hst
    rw [Block.window_of_body hst, hf, Params.maxFrame]
    omega

/-- Settles O39: fewer bytes than the window, and the window is a frame at most. -/
theorem restBoundsAtFixpoint : Obligations.RestBoundsAtFixpoint := by
  intro c b hb hfix
  have hshort := Block.atFixpoint_iff.1 hfix
  have hwindow := hb.window_le_maxFrame
  have hcap := c.maxFrame_le_bufCap
  exact ⟨hb.restBounds hfix, by omega, by omega⟩

/-! ## The bytes accounted for -/

/-- R28, R31: the bytes that are buffered, received in frames or dropped. -/
def Block.accounted (b : Block) : Nat := b.buf.length + b.ctr.rcvBytes + b.ctr.droppedBytes

theorem wrapAdd_modEq (c : Config) (v k : Nat) : wrapAdd c v k ≡ v + k [MOD 2 ^ c.ctrW] := Nat.mod_modEq _ _

/-- Bytes that leave the buffer and are counted as dropped are still accounted for. -/
theorem accounted_of_dropped {b' : Block} {k : Nat} (hk : k ≤ b.buf.length) (hbuf : b'.buf = b.buf.drop k)
    (hrcv : b'.ctr.rcvBytes = b.ctr.rcvBytes) (hdropped : b'.ctr.droppedBytes = wrapAdd c b.ctr.droppedBytes k) :
    b'.accounted ≡ b.accounted [MOD 2 ^ c.ctrW] := by
  have hsum : b.accounted = (b.buf.length - k + b.ctr.rcvBytes) + (b.ctr.droppedBytes + k) := by
    simp only [Block.accounted]
    omega
  rw [hsum, Block.accounted, hbuf, hrcv, hdropped, List.length_drop]
  exact (wrapAdd_modEq c _ k).add_left _

/-- Bytes that leave the buffer and are counted as received are still accounted for. -/
theorem accounted_of_received {b' : Block} {k : Nat} (hk : k ≤ b.buf.length) (hbuf : b'.buf = b.buf.drop k)
    (hrcv : b'.ctr.rcvBytes = wrapAdd c b.ctr.rcvBytes k) (hdropped : b'.ctr.droppedBytes = b.ctr.droppedBytes) :
    b'.accounted ≡ b.accounted [MOD 2 ^ c.ctrW] := by
  have hsum : b.accounted = b.buf.length - k + (b.ctr.rcvBytes + k) + b.ctr.droppedBytes := by
    simp only [Block.accounted]
    omega
  rw [hsum, Block.accounted, hbuf, hrcv, hdropped, List.length_drop]
  exact ((wrapAdd_modEq c _ k).add_left _).add_right _

theorem nosyncCount_le_length (c : Config) (s : Bytes) : nosyncCount c s ≤ s.length := by
  rcases nosyncCount_cases c s with h | h <;> omega

/-- R28, R31: no step loses a byte or counts one twice. -/
theorem RxArm.accounted (h : RxArm c b r) (hf : b.FrameLenInv) :
    r.block.accounted ≡ b.accounted [MOD 2 ^ c.ctrW] := by
  cases h with
  | wait | syncHead | hdrOk => exact Nat.ModEq.refl _
  | syncSkip k hst hpos hk =>
    have hlt := (findSync_eq_some_iff.1 hk).1.lt_length
    exact accounted_of_dropped (by omega) rfl rfl rfl
  | nosyncDrop => exact accounted_of_dropped (nosyncCount_le_length c b.buf) rfl rfl rfl
  | errSize hst hlen =>
    exact accounted_of_dropped (k := magicW) (Nat.le_trans (by decide) hlen) rfl rfl rfl
  | errTrailer hst hlen | errCrc hst hlen =>
    have hfLen := hf hst
    exact accounted_of_dropped (k := magicW) (by simp only [magicW]; omega) rfl rfl rfl
  | frameDispatched hst hlen | frameNoReceiver hst hlen => exact accounted_of_received hlen rfl rfl rfl

end Invariants

/-! ## What a step sees of appended bytes -/

section Appending

variable {c : Config} {b : Block} {r : StepResult}

theorem magicStands_append_iff {m : Magic} {s : Bytes} (t : Bytes) {i : Nat} (h : i + 1 < s.length) :
    MagicStands m (s ++ t) i ↔ MagicStands m s i := by
  have hi : i < s.length := by omega
  simp only [MagicStands, List.getElem?_append_left hi, List.getElem?_append_left h]

/-- R92: a magic that is found stays the first one, whatever comes behind it. -/
theorem findSync_append_of_eq_some {m : Magic} {s : Bytes} (t : Bytes) {k : Nat} (h : findSync m s = some k) :
    findSync m (s ++ t) = some k := by
  obtain ⟨hk, hleast⟩ := findSync_eq_some_iff.1 h
  have hlt := hk.lt_length
  refine findSync_eq_some_iff.2 ⟨(magicStands_append_iff t hlt).2 hk, fun i hi => ?_⟩
  rw [magicStands_append_iff t (by omega)]
  exact hleast i hi

theorem Block.bufDrop_bufAppend (b : Block) {k : Nat} (t : Bytes) (h : k ≤ b.buf.length) :
    (b.bufDrop k).bufAppend t = (b.bufAppend t).bufDrop k := by
  simp [Block.bufDrop, Block.bufAppend, List.drop_append_of_le_length h]

theorem Block.captureHeader_bufAppend (b : Block) (t : Bytes) (h : hdrLen ≤ b.buf.length) :
    (b.bufAppend t).captureHeader = b.captureHeader.bufAppend t := by
  simp only [hdrLen] at h
  simp [Block.captureHeader, Block.bufAppend, byteAt_append t (show 2 < b.buf.length by omega),
    byteAt_append t (show 3 < b.buf.length by omega), byteAt_append t (show 4 < b.buf.length by omega),
    byteAt_append t (show 5 < b.buf.length by omega)]

theorem Block.takeError_bufAppend (b : Block) (c : Config) (e : Cause) (t : Bytes) (h : magicW ≤ b.buf.length) :
    (b.takeError c e).bufAppend t = (b.bufAppend t).takeError c e := by
  have hrecord : (b.record c e).bufAppend t = (b.bufAppend t).record c e := by cases e <;> rfl
  have hbuf : magicW ≤ (b.record c e).buf.length := by cases e <;> exact h
  rw [Block.takeError, Block.takeError, ← hrecord]
  exact congrArg (·.goto .searchingSync) (Block.bufDrop_bufAppend ((b.record c e).count c .droppedBytes magicW) t hbuf)

theorem payloadOf_append (s t : Bytes) (size : Byte) (h : 6 + size.toNat ≤ s.length) :
    payloadOf (s ++ t) size = payloadOf s size := by
  rw [payloadOf_eq, payloadOf_eq, List.drop_append_of_le_length (by omega),
    List.take_append_of_le_length (by rw [List.length_drop]; omega)]

theorem RxArm.of_block_eq {x : Block} (h : RxArm c b r) (hx : x = r.block) : RxArm c b { r with block := x } :=
  hx ▸ h

/-- R103: what a step does that is no wait and no drop without a magic, it does in front of any bytes appended. -/
theorem RxArm.bufAppend (h : RxArm c b r) (hf : b.FrameLenInv) (hp : r.progress = true)
    (hn : r.outcome ≠ .nosyncDrop) (t : Bytes) :
    RxArm c (b.bufAppend t) { r with block := r.block.bufAppend t } := by
  have hle : ∀ {n}, n ≤ b.buf.length → n ≤ (b.bufAppend t).buf.length := fun hn => by
    rw [Block.bufAppend_buf, List.length_append]
    omega
  have htrailer : b.st = .awaitingBody → b.fLen.toNat ≤ b.buf.length →
      magicAt c.tm (b.bufAppend t).buf (trailerOffset b.hSize) = magicAt c.tm b.buf (trailerOffset b.hSize) :=
    fun hst hlen => magicAt_append t (by have := hf hst; simp only [trailerOffset, hdrLen]; omega)
  have hframe : b.fLen.toNat ≤ b.buf.length →
      (b.bufAppend t).buf.take b.fLen.toNat = b.buf.take b.fLen.toNat :=
    fun hlen => List.take_append_of_le_length hlen
  cases h with
  | wait => cases hp
  | nosyncDrop => exact absurd rfl hn
  | syncHead hst hk => exact .syncHead hst (findSync_append_of_eq_some t hk)
  | syncSkip k hst hpos hk =>
    have hlt := (findSync_eq_some_iff.1 hk).1.lt_length
    have hblock := Block.bufDrop_bufAppend (b.count c .droppedBytes k) t (show k ≤ b.buf.length by omega)
    exact (RxArm.syncSkip (b := b.bufAppend t) k hst hpos (findSync_append_of_eq_some t hk)).of_block_eq
      (congrArg (·.goto .awaitingHeader) hblock)
  | hdrOk hst hlen hsize =>
    refine (RxArm.hdrOk (b := b.bufAppend t) hst (hle hlen) ?_).of_block_eq ?_
    · rwa [Block.bufAppend_buf, byteAt_append t (Nat.lt_of_lt_of_le (by decide) hlen)]
    · rw [Block.captureHeader_bufAppend b t hlen]
      rfl
  | errSize hst hlen hsize =>
    refine (RxArm.errSize (b := b.bufAppend t) hst (hle hlen) ?_).of_block_eq ?_
    · rwa [Block.bufAppend_buf, byteAt_append t (Nat.lt_of_lt_of_le (by decide) hlen)]
    · rw [Block.captureHeader_bufAppend b t hlen]
      exact Block.takeError_bufAppend _ c .size t (Nat.le_trans (by decide) hlen)
  | errTrailer hst hlen ht =>
    have hfLen := hf hst
    exact (RxArm.errTrailer (b := b.bufAppend t) hst (hle hlen) ((htrailer hst hlen).trans ht)).of_block_eq
      (Block.takeError_bufAppend b c .trailer t (by simp only [magicW]; omega))
  | errCrc hst hlen ht hcrc =>
    have hfLen := hf hst
    rw [← hframe hlen] at hcrc
    exact (RxArm.errCrc (b := b.bufAppend t) hst (hle hlen) ((htrailer hst hlen).trans ht) hcrc).of_block_eq
      (Block.takeError_bufAppend b c .crc t (by simp only [magicW]; omega))
  | frameDispatched hst hlen ht hcrc hreg =>
    have hfLen := hf hst
    have hblock := Block.bufDrop_bufAppend (b.countFrame c) t hlen
    rw [← hframe hlen] at hcrc
    rw [← payloadOf_append b.buf t b.hSize (by omega)]
    exact (RxArm.frameDispatched (b := b.bufAppend t) hst (hle hlen) ((htrailer hst hlen).trans ht) hcrc
      hreg).of_block_eq (congrArg (·.goto .searchingSync) hblock)
  | frameNoReceiver hst hlen ht hcrc hreg =>
    have hblock := Block.bufDrop_bufAppend ((b.countFrame c).count c .noReceiver 1) t hlen
    rw [← hframe hlen] at hcrc
    exact (RxArm.frameNoReceiver (b := b.bufAppend t) hst (hle hlen) ((htrailer hst hlen).trans ht) hcrc
      hreg).of_block_eq (congrArg (·.goto .searchingSync) hblock)

end Appending

end Sys2Proof.Machine
end

section
/-! The drain (41_receiver_fsm.md R104 to R106): it takes one step after another until a fixpoint, its fuel never runs
out, and a property of a drain is proved by `Block.induction_on_steps`. -/

namespace Sys2Proof.Machine

/-! ## How many steps a drain can take -/

/-- R105: the steps that can still follow without a byte leaving the buffer. -/
def RxState.stepsAhead : RxState → Nat
  | .searchingSync => 2
  | .awaitingHeader => 1
  | .awaitingBody => 0

theorem RxState.stepsAhead_le (q : RxState) : q.stepsAhead ≤ 2 := by cases q <;> decide

/-- R105: a bound on the progress steps from a block whose awaited length is right. -/
def Block.stepBound (b : Block) : Nat := 3 * b.buf.length + b.st.stepsAhead

section Steps

variable {c : Config} {b : Block} {r : StepResult}

theorem Block.stepBound_le (b : Block) : b.stepBound ≤ 3 * b.buf.length + 2 :=
  Nat.add_le_add_left b.st.stepsAhead_le _

/-- A step that drops at least one byte lowers the bound, whatever state it goes to. -/
theorem Block.stepBound_lt_of_drop {b' : Block} {k : Nat} (hbuf : b'.buf = b.buf.drop k) (hpos : 0 < k)
    (hlen : k ≤ b.buf.length) : b'.stepBound < b.stepBound := by
  have := b'.stepBound_le
  rw [hbuf, List.length_drop] at this
  simp only [Block.stepBound] at this ⊢
  omega

/-- R105: each progress step lowers the bound. -/
theorem RxArm.stepBound_lt (h : RxArm c b r) (hf : b.FrameLenInv) (hp : r.progress = true) :
    r.block.stepBound < b.stepBound := by
  cases h with
  | wait => cases hp
  | syncHead hst => simp [Block.stepBound, hst, RxState.stepsAhead]
  | syncSkip k hst hpos hk =>
    have hlt := (findSync_eq_some_iff.1 hk).1.lt_length
    exact Block.stepBound_lt_of_drop rfl hpos (by omega)
  | nosyncDrop hst hlen =>
    exact Block.stepBound_lt_of_drop rfl (nosyncCount_pos c hlen) (nosyncCount_le_length c b.buf)
  | hdrOk hst => simp [Block.stepBound, hst, RxState.stepsAhead]
  | errSize hst hlen =>
    exact Block.stepBound_lt_of_drop (Block.takeError_buf ..) (by decide) (Nat.le_trans (by decide) hlen)
  | errTrailer hst hlen | errCrc hst hlen =>
    have hfLen := hf hst
    exact Block.stepBound_lt_of_drop (Block.takeError_buf ..) (by decide) (by simp only [magicW]; omega)
  | frameDispatched hst hlen | frameNoReceiver hst hlen =>
    have hfLen := hf hst
    exact Block.stepBound_lt_of_drop (k := b.fLen.toNat) rfl (by omega) hlen

/-- R28: no step adds a byte to the buffer. -/
theorem RxArm.length_le (h : RxArm c b r) : r.block.buf.length ≤ b.buf.length := by
  cases h with
  | wait | syncHead | hdrOk => exact Nat.le_refl _
  | errSize | errTrailer | errCrc => simp
  | syncSkip | nosyncDrop | frameDispatched | frameNoReceiver => simp

theorem not_atFixpoint_iff : ¬ b.AtFixpoint c ↔ (rxStep c b).progress = true := by
  simp [Block.AtFixpoint]

end Steps

/-- R105, R106: step after step, every block comes to a fixpoint; so a property that holds at fixpoints, and holds of a
block once it holds of the block after its step, holds of every block. -/
theorem Block.induction_on_steps (c : Config) {P : Block → Prop} (rest : ∀ b, b.AtFixpoint c → P b)
    (more : ∀ b, (rxStep c b).progress = true → P (rxStep c b).block → P b) (b : Block) : P b := by
  have bounded : ∀ n b, b.FrameLenInv → b.stepBound < n → P b := by
    intro n
    induction n with
    | zero => exact fun b _ hn => absurd hn (Nat.not_lt_zero _)
    | succ n ih =>
      intro b hf hn
      by_cases hfix : b.AtFixpoint c
      · exact rest b hfix
      · have hp := not_atFixpoint_iff.1 hfix
        have hlt := (rxStep_arm c b).stepBound_lt hf hp
        exact more b hp (ih _ ((rxStep_arm c b).frameLenInv hp) (by omega))
  by_cases hfix : b.AtFixpoint c
  · exact rest b hfix
  · have hp := not_atFixpoint_iff.1 hfix
    exact more b hp (bounded _ _ ((rxStep_arm c b).frameLenInv hp) (Nat.lt_succ_self _))

/-! ## The drain, one step at a time -/

section Drain

variable {c : Config} {b : Block}

@[simp] theorem DrainResult.after_block (d : DrainResult) (r : StepResult) : (d.after r).block = d.block := rfl
@[simp] theorem DrainResult.after_events (d : DrainResult) (r : StepResult) :
    (d.after r).events = r.event.toList ++ d.events := rfl
@[simp] theorem DrainResult.after_trace (d : DrainResult) (r : StepResult) :
    (d.after r).trace = r.outcome :: d.trace := rfl

/-- R104: at a fixpoint, any fuel gives the one step that waits. -/
theorem drainFuel_of_atFixpoint (n : Nat) (h : b.AtFixpoint c) :
    drainFuel c (n + 1) b = { block := b, events := [], trace := [.wait] } := by
  rw [drainFuel_of_fixpoint n h, rxStep_of_atFixpoint h]
  rfl

/-- R105: every fuel above the bound gives the same drain. -/
theorem drainFuel_eq_of_stepBound_lt (hf : b.FrameLenInv) {n m : Nat} (hn : b.stepBound < n) (hm : b.stepBound < m) :
    drainFuel c n b = drainFuel c m b := by
  induction n generalizing b m with
  | zero => exact absurd hn (Nat.not_lt_zero _)
  | succ n ih =>
    obtain ⟨m, rfl⟩ : ∃ k, m = k + 1 := ⟨m - 1, by omega⟩
    by_cases hfix : b.AtFixpoint c
    · rw [drainFuel_of_atFixpoint n hfix, drainFuel_of_atFixpoint m hfix]
    · have hp := not_atFixpoint_iff.1 hfix
      have hlt := (rxStep_arm c b).stepBound_lt hf hp
      have htail := ih ((rxStep_arm c b).frameLenInv hp) (m := m) (by omega) (by omega)
      rw [drainFuel_of_progress n hp, drainFuel_of_progress m hp, htail]

theorem Block.stepBound_lt_drainBound (b : Block) : b.stepBound < drainBound b := by
  have := b.stepBound_le
  rw [drainBound]
  omega

/-- R104: a drain at a fixpoint waits once. -/
theorem drain_of_atFixpoint (h : b.AtFixpoint c) : drain c b = { block := b, events := [], trace := [.wait] } :=
  drainFuel_of_atFixpoint _ h

/-- R104: a drain from a block that makes progress is its step and then the drain of what the step leaves. -/
theorem drain_of_progress (h : (rxStep c b).progress = true) :
    drain c b = (drain c (rxStep c b).block).after (rxStep c b) := by
  have hlen := (rxStep_arm c b).length_le
  have hbound := (rxStep c b).block.stepBound_le
  have hfuel := drainFuel_eq_of_stepBound_lt (c := c) ((rxStep_arm c b).frameLenInv h)
    (n := 3 * b.buf.length + 3) (by omega) (rxStep c b).block.stepBound_lt_drainBound
  rw [drain, drain, ← hfuel, ← drainFuel_of_progress _ h, drainBound]

/-- The same, for a step whose answer is known. -/
theorem drain_of_rxStep_eq {r : StepResult} (hr : rxStep c b = r) (hp : r.progress = true) :
    drain c b = (drain c r.block).after r := by
  subst hr
  exact drain_of_progress hp

/-! ## What a drain leaves -/

/-- R106: a drain ends at a fixpoint. -/
theorem drain_atFixpoint (c : Config) (b : Block) : (drain c b).block.AtFixpoint c := by
  induction b using Block.induction_on_steps c with
  | rest b h => rwa [drain_of_atFixpoint h]
  | more b hp ih => rwa [drain_of_progress hp]

/-- Settles O37: the last step of a drain waits, and a step that waits changes nothing. -/
theorem drainEndsAtFixpoint : Obligations.DrainEndsAtFixpoint := drain_atFixpoint

/-- R104: the steps of a drain are progress steps and then one `WAIT`. -/
theorem drain_trace (c : Config) (b : Block) :
    ∃ tr, (drain c b).trace = tr ++ [.wait] ∧ ∀ o ∈ tr, o.progress = true := by
  induction b using Block.induction_on_steps c with
  | rest b h => exact ⟨[], by simp [drain_of_atFixpoint h]⟩
  | more b hp ih =>
    obtain ⟨tr, htr, hall⟩ := ih
    exact ⟨(rxStep c b).outcome :: tr, by simp [drain_of_progress hp, htr], List.forall_mem_cons.2 ⟨hp, hall⟩⟩

/-- R105: how many steps a drain takes, the last one that waits among them. -/
theorem length_drain_trace_le (hf : b.FrameLenInv) : (drain c b).trace.length ≤ b.stepBound + 1 := by
  induction b using Block.induction_on_steps c with
  | rest b h => simp [drain_of_atFixpoint h]
  | more b hp ih =>
    have hlt := (rxStep_arm c b).stepBound_lt hf hp
    have htail := ih ((rxStep_arm c b).frameLenInv hp)
    rw [drain_of_progress hp, DrainResult.after_trace, List.length_cons]
    omega

/-- Settles O36: each progress step lowers the bound, and so no fuel above it is ever used up. -/
theorem drainTerminates : Obligations.DrainTerminates := by
  intro c b hb
  have hbound := b.stepBound_le
  constructor
  · obtain ⟨tr, htr, hall⟩ := drain_trace c b
    have hlen := length_drain_trace_le (c := c) hb.frameLenInv
    rw [htr, List.length_append, List.length_singleton] at hlen
    exact ⟨tr, htr, hall, by omega⟩
  · intro n hn
    exact drainFuel_eq_of_stepBound_lt hb.frameLenInv (by omega) b.stepBound_lt_drainBound

/-- R39: a drain keeps the three invariants. -/
theorem drain_inv (hb : b.Inv c) : (drain c b).block.Inv c := by
  induction b using Block.induction_on_steps c with
  | rest b h => rwa [drain_of_atFixpoint h]
  | more b hp ih =>
    rw [drain_of_progress hp]
    exact ih ((rxStep_arm c b).inv hb)

/-- R33: a drain keeps the counters in their width. -/
theorem drain_bounded (hb : b.ctr.Bounded c) : (drain c b).block.ctr.Bounded c := by
  induction b using Block.induction_on_steps c with
  | rest b h => rwa [drain_of_atFixpoint h]
  | more b hp ih =>
    rw [drain_of_progress hp]
    exact ih ((rxStep_arm c b).bounded hb)

/-- R36: a drain does not write the registry. -/
theorem drain_reg (c : Config) (b : Block) : (drain c b).block.reg = b.reg := by
  induction b using Block.induction_on_steps c with
  | rest b h => rw [drain_of_atFixpoint h]
  | more b hp ih => rw [drain_of_progress hp, DrainResult.after_block, ih, (rxStep_arm c b).reg_eq]

/-- R28, R31: a drain accounts for every byte. -/
theorem drain_accounted (hf : b.FrameLenInv) : (drain c b).block.accounted ≡ b.accounted [MOD 2 ^ c.ctrW] := by
  induction b using Block.induction_on_steps c with
  | rest b h =>
    rw [drain_of_atFixpoint h]
  | more b hp ih =>
    rw [drain_of_progress hp]
    exact (ih ((rxStep_arm c b).frameLenInv hp)).trans ((rxStep_arm c b).accounted hf)

/-- R104: the events of a drain that makes progress are the step's and then the rest's. -/
theorem mem_drain_events {e : Dispatch} (hp : (rxStep c b).progress = true) :
    e ∈ (drain c b).events ↔ (rxStep c b).event = some e ∨ e ∈ (drain c (rxStep c b).block).events := by
  simp [drain_of_progress hp]

/-- R101: every event of a drain is for a port registered when the drain began. -/
theorem registered_of_mem_drain_events {e : Dispatch} (he : e ∈ (drain c b).events) : regBit b.reg e.port = true := by
  induction b using Block.induction_on_steps c with
  | rest b h => simp [drain_of_atFixpoint h] at he
  | more b hp ih =>
    rcases (mem_drain_events hp).1 he with hstep | hrest
    · obtain ⟨-, hreg, -⟩ := (rxStep_arm c b).event_eq_some hstep
      exact hreg
    · exact (rxStep_arm c b).reg_eq ▸ ih hrest

/-- R110: no event of a drain has a payload above `MAX_PAYLOAD`. -/
theorem length_payload_le_of_mem_drain_events {e : Dispatch} (hb : b.Inv c) (he : e ∈ (drain c b).events) :
    e.payload.length ≤ c.maxPayload := by
  induction b using Block.induction_on_steps c with
  | rest b h => simp [drain_of_atFixpoint h] at he
  | more b hp ih =>
    rcases (mem_drain_events hp).1 he with hstep | hrest
    · obtain ⟨hst, -, hlen⟩ := (rxStep_arm c b).event_eq_some hstep
      obtain ⟨-, hbody, -⟩ := hb
      obtain ⟨-, -, hsize, -⟩ := hbody hst
      exact Nat.le_trans hlen hsize
    · exact ih ((rxStep_arm c b).inv hb) hrest

/-- Settles O46: no step writes the registry, and a step's event is for a port that is set in it. -/
theorem eventsOnlyForRegisteredPorts : Obligations.EventsOnlyForRegisteredPorts :=
  fun c b => ⟨drain_reg c b, fun _ he => registered_of_mem_drain_events he⟩

/-- Settles O48: a block that waits for its frame is at a fixpoint, whatever is appended. -/
theorem staleHeaderDelaysEverything : Obligations.StaleHeaderDelaysEverything := by
  intro c b s hst hshort
  apply drain_of_atFixpoint
  rw [Block.atFixpoint_iff, Block.window_of_body (b := b.bufAppend s) hst, Block.bufAppend_buf, List.length_append]
  exact hshort

end Drain

end Sys2Proof.Machine
end

section
/-! `PROCESS` (42_host_operations.md R107, 60_exceptions.md R123): the whole state after it, for every draw. -/

namespace Sys2Proof.Machine

section Process

variable {s : State} {d : Draw}

theorem processWith_of_availFails (ha : d.availFails = true) :
    processWith d s = (s.betweenCalls d).raiseIoError := by
  rcases processWith_cases d s with ⟨-, h⟩ | ⟨ha', -⟩ | ⟨ha', -⟩
  · exact h
  · simp [ha] at ha'
  · simp [ha] at ha'

/-- R107: with nothing to ask for, `read` is not called. -/
theorem processWith_of_no_request (ha : d.availFails = false) (hm : s.readRequest = 0) :
    processWith d s = (s.betweenCalls d).drainAndRespond := by
  rcases processWith_cases d s with ⟨ha', -⟩ | ⟨-, -, h⟩ | ⟨-, hm', -⟩
  · simp [ha] at ha'
  · exact h
  · exact absurd hm (Nat.ne_of_gt hm')

/-- R107: otherwise `read` is asked for `m` bytes. -/
theorem processWith_of_request (ha : d.availFails = false) (hm : 0 < s.readRequest) :
    processWith d s = (s.betweenCalls d).processRead d s.readRequest := by
  rcases processWith_cases d s with ⟨ha', -⟩ | ⟨-, hm', -⟩ | ⟨-, -, h⟩
  · simp [ha] at ha'
  · exact absurd hm' (Nat.ne_of_gt hm)
  · exact h

theorem ReadDraw.answerLength_le (r : ReadDraw) (m : Nat) : r.answerLength m ≤ m := by
  cases r with
  | full => exact Nat.le_refl m
  | upTo j => exact Nat.min_le_right j m
  | fail lost => exact Nat.zero_le m

/-- R51: an answering read of no more than is there takes what the draw says. -/
theorem Transport.readCount_of_answers {t : Transport} {m : Nat} (hd : d.read.answers = true)
    (hm : m ≤ t.fifo.length) : t.readCount d m = d.read.answerLength m := by
  unfold Transport.readCount
  cases hr : d.read with
  | full => exact Nat.min_eq_left hm
  | upTo j => simp [Nat.min_eq_left hm]
  | fail lost => simp [hr, ReadDraw.answers] at hd

/-- R51: what an answering read returns. -/
theorem Transport.readBytes_of_answers {t : Transport} {m : Nat} (hd : d.read.answers = true) :
    t.readBytes d m = some (t.fifo.take (t.readCount d m)) := by
  unfold Transport.readBytes
  cases hr : d.read with
  | full | upTo j => rfl
  | fail lost => simp [hr, ReadDraw.answers] at hd

/-- R123: a failed read of no more than is there loses at most that much. -/
theorem Transport.readCount_of_fail {t : Transport} {m lost : Nat} (hd : d.read = .fail lost)
    (hm : m ≤ t.fifo.length) : t.readCount d m = min lost m := by
  simp [Transport.readCount, hd, Nat.min_eq_left hm]

theorem State.readRequest_le_fifo (s : State) : s.readRequest ≤ s.transport.fifo.length := Nat.min_le_left _ _

theorem State.readRequest_le_freeSpace (s : State) : s.readRequest ≤ s.cfg.bufCap - s.block.buf.length :=
  Nat.min_le_right _ _

/-- R57: the link's arrivals do not shorten what there is to read. -/
theorem State.readRequest_le_betweenCalls (s : State) (d : Draw) :
    s.readRequest ≤ (s.betweenCalls d).transport.fifo.length := by
  have := s.readRequest_le_fifo
  simp only [betweenCalls_transport, Transport.linkAppend_fifo, Transport.useDraw_fifo, List.length_append]
  omega

/-- R107: with nothing to read, the block is drained as it is. -/
theorem exec_process_of_no_request (ha : s.transport.nextDraw.availFails = false) (hm : s.readRequest = 0) :
    exec .process s = .next
      { s with
        block := (drain s.cfg s.block).block
        transport :=
          { fifo := s.transport.fifo ++ s.transport.nextDraw.arrivals, draws := s.transport.draws.tail }
        obs :=
          { responses := s.obs.responses ++ [⟨.ok, 0⟩]
            events := s.obs.events ++ (drain s.cfg s.block).events
            trace := s.obs.trace ++ (drain s.cfg s.block).trace } } := by
  rw [exec_process, processWith_of_no_request ha hm]
  rfl

/-- Settles O16: `exec_process_of_no_request`, whatever the draw of the read. -/
theorem processWithoutRoomOrBytesDoesNotRead : Obligations.ProcessWithoutRoomOrBytesDoesNotRead :=
  fun _ ha hm => exec_process_of_no_request ha hm

/-- R51, R57, R107: the reading half of a `PROCESS` whose read answers takes `k` bytes from the head of `T`. -/
theorem State.processRead_of_answers (hd : d.read.answers = true) :
    (s.betweenCalls d).processRead d s.readRequest =
      State.drainAndRespond
        { s with
          transport :=
            { fifo := s.transport.fifo.drop (d.read.answerLength s.readRequest) ++ d.arrivals
              draws := s.transport.draws.tail }
          block := s.block.bufAppend (s.transport.fifo.take (d.read.answerLength s.readRequest)) } := by
  have hcount := Transport.readCount_of_answers hd (s.readRequest_le_betweenCalls d)
  have hk : d.read.answerLength s.readRequest ≤ s.transport.fifo.length :=
    Nat.le_trans (d.read.answerLength_le _) s.readRequest_le_fifo
  simp only [State.processRead, Transport.readBytes_of_answers hd, Transport.afterRead, hcount]
  simp only [betweenCalls_transport, Transport.linkAppend_fifo, Transport.useDraw_fifo,
    List.take_append_of_le_length hk, List.drop_append_of_le_length hk]
  rfl

/-- Settles O15: with something to read the read takes `k` bytes, and with nothing to read `k` is 0. -/
theorem processReadsAppendsAndDrains : Obligations.ProcessReadsAppendsAndDrains := by
  intro s ha hd
  rcases Nat.eq_zero_or_pos s.readRequest with hm | hm
  · have hk : s.transport.nextDraw.read.answerLength s.readRequest = 0 :=
      Nat.eq_zero_of_le_zero (hm ▸ ReadDraw.answerLength_le _ _)
    simpa only [hk, List.take_zero, List.append_nil, List.drop_zero] using exec_process_of_no_request ha hm
  · rw [exec_process, processWith_of_request ha hm, State.processRead_of_answers hd]
    rfl

/-- Settles O17: neither failing call gets to the drain. -/
theorem failedTransportLeavesBlock : Obligations.FailedTransportLeavesBlock := by
  constructor
  · intro s ha
    rw [exec_process, processWith_of_availFails ha]
    rfl
  · intro s lost ha hd hm
    have hcount := Transport.readCount_of_fail hd (s.readRequest_le_betweenCalls s.transport.nextDraw)
    have hbytes := ((s.betweenCalls s.transport.nextDraw).transport.readBytes_eq_none_iff s.transport.nextDraw
      s.readRequest).2 ⟨lost, hd⟩
    have hk : min lost s.readRequest ≤ s.transport.fifo.length :=
      Nat.le_trans (Nat.min_le_right _ _) s.readRequest_le_fifo
    rw [exec_process, processWith_of_request ha hm]
    simp only [State.processRead, hbytes, Transport.afterRead, hcount]
    simp only [State.betweenCalls_transport, Transport.linkAppend_fifo, Transport.useDraw_fifo,
      List.drop_append_of_le_length hk]
    rfl

/-- Settles O18: no byte is appended, and the drain of a block at rest is one `WAIT`. -/
theorem processWithNoNewBytesChangesNothing : Obligations.ProcessWithNoNewBytesChangesNothing := by
  intro s hfix ha hnone
  have hdrain := drain_of_atFixpoint hfix
  rcases hnone with hm | ⟨hd, hk⟩
  · have hexec := exec_process_of_no_request ha hm
    simpa only [hdrain, List.append_nil] using hexec
  · have hexec := processReadsAppendsAndDrains s ha hd
    simpa only [hk, List.take_zero, List.drop_zero, List.append_nil, hdrain] using hexec

/-- R107, R123: everything a `PROCESS` can do to the block: nothing, or append what fits and drain. -/
theorem processWith_forms (d : Draw) (s : State) :
    (∃ tr : Transport, processWith d s = { s with transport := tr }.raiseIoError) ∨
      ∃ (tr : Transport) (x : Bytes), x.length ≤ s.cfg.bufCap - s.block.buf.length ∧
        processWith d s = { s with transport := tr, block := s.block.bufAppend x }.drainAndRespond := by
  rcases processWith_cases d s with ⟨-, h⟩ | ⟨-, -, h⟩ | ⟨-, -, h⟩
  · exact .inl ⟨_, h⟩
  · refine .inr ⟨(s.betweenCalls d).transport, [], Nat.zero_le _, h.trans ?_⟩
    simp [Block.bufAppend, State.betweenCalls]
  · rcases (s.betweenCalls d).processRead_cases d s.readRequest with ⟨lost, -, h'⟩ | ⟨-, h'⟩
    · exact .inl ⟨_, h.trans h'⟩
    · have hcount := ((s.betweenCalls d).transport.readCount_le d s.readRequest).1
      refine .inr ⟨_, _, ?_, h.trans h'⟩
      rw [List.length_take]
      exact Nat.le_trans (Nat.min_le_left _ _) (Nat.le_trans hcount s.readRequest_le_freeSpace)

/-- Settles O44: what leaves `T` joins the buffer, and the drain accounts for every byte there. -/
theorem everyByteIsAccountedFor : Obligations.EveryByteIsAccountedFor := by
  intro s t hb ha hd hexec
  rw [processReadsAppendsAndDrains s ha hd] at hexec
  cases hexec
  have hk : s.transport.nextDraw.read.answerLength s.readRequest ≤ s.transport.fifo.length :=
    Nat.le_trans (ReadDraw.answerLength_le _ _) s.readRequest_le_fifo
  generalize s.transport.nextDraw.read.answerLength s.readRequest = k at hk ⊢
  have hdrain := drain_accounted (c := s.cfg) (b := s.block.bufAppend (s.transport.fifo.take k)) hb.frameLenInv
  have hsum := hdrain.add_left (s.transport.fifo.length - k + s.transport.nextDraw.arrivals.length)
  simp only [Block.accounted, Block.bufAppend_buf, Block.bufAppend_ctr, List.length_append,
    List.length_take, Nat.min_eq_left hk] at hsum
  simp only [List.length_append, List.length_drop]
  unfold Nat.ModEq at hsum
  convert hsum using 2
  · simp only [Block.bufAppend]
    omega
  · omega

end Process

end Sys2Proof.Machine
end

section
/-! Steps of the machine (00_scope.md R3, 30_encoding.md R73, R79): what one step can be, said once as `MachineStep`,
and what every step keeps. -/

namespace Sys2Proof.Machine

/-! ## Single steps -/

/-- Settles O5: the host's move decodes, and a word issued by `withFetchWord` is the first move. -/
theorem stepRunsDecodedInstruction : Obligations.StepRunsDecodedInstruction := by
  constructor
  · intro s w rest i hm hi
    rw [step_of_moves hm]
    simp only [performMove, hostCommand, hi]
  · intro s i hwf
    have hword : BitVec.ofNat 16 ((encode i).toNat % 2 ^ 16) = encode i := by
      rw [Nat.mod_eq_of_lt (encode i).isLt, BitVec.ofNat_toNat, BitVec.setWidth_eq]
    have hm : (s.withFetchWord 16 (encode i).toNat).moves = .host (encode i) :: s.moves :=
      congrArg (Move.host · :: s.moves) hword
    rw [step_of_moves hm]
    simp only [performMove, hostCommand, decode_encode hwf]
    rfl

/-- Settles O7: no move, no change. -/
theorem idleStepChangesNothing : Obligations.IdleStepChangesNothing := fun _ => step_of_no_moves

/-- Settles O8: each of the environment's moves writes the transport alone. -/
theorem environmentMovesTouchOnlyTransport : Obligations.EnvironmentMovesTouchOnlyTransport :=
  ⟨fun _ _ _ hm => step_of_moves hm, fun _ _ _ hm => step_of_moves hm, fun _ _ hm => step_of_moves hm⟩

/-- Settles O56: the amended draw is a failing one, and using it up leaves the draws behind it. -/
theorem failDirectiveFailsOnlyTheNextCall : Obligations.FailDirectiveFailsOnlyTheNextCall := by
  constructor
  · intro s rest hm
    refine ⟨failNextMove { s with moves := rest }, step_of_moves hm, ?_⟩
    rw [exec_process, processWith_of_availFails rfl]
    rfl
  · intro s rest hm
    exact ⟨failNextMove { s with moves := .failNext :: rest }, step_of_moves hm,
      step_of_moves (m := .failNext) (rest := rest) rfl⟩

/-- Settles O10: the four conditions are `Params.WF`, and `Config.ofParams?` asks for nothing else. -/
theorem badConfigurationsAreRefused : Obligations.BadConfigurationsAreRefused := by
  intro p
  constructor
  · intro hwf
    have hok : decide p.WF = true := decide_eq_true hwf
    exact ⟨{ toParams := p, ok := hok }, rfl, by simp only [State.instantiate, Config.ofParams?, dif_pos hok]⟩
  · intro hbad
    have hno : ¬ decide p.WF = true := fun hok => hbad (of_decide_eq_true hok)
    simp only [State.instantiate, Config.ofParams?, dif_neg hno]

/-- R120: every instruction answers a next state. -/
theorem exists_exec_eq_next (i : Instr) (s : State) : ∃ t, exec i s = .next t := by
  cases i with
  | process => exact ⟨_, exec_process s⟩
  | register p => exact ⟨_, exec_register p s⟩
  | statsRead i =>
    cases hi : counterOf i with
    | some n => exact ⟨_, exec_statsRead hi s⟩
    | none => exact ⟨s.raiseIllegal, by simp only [exec, execStatsRead, hi]⟩
  | statsClear => exact ⟨_, exec_statsClear s⟩

/-- Settles O6: whichever agent moves, it answers a next state. -/
theorem everyStepAnswersNext : Obligations.EveryStepAnswersNext := by
  intro s
  cases hm : s.moves with
  | nil => exact ⟨s, step_of_no_moves hm⟩
  | cons m rest =>
    rw [step_of_moves hm]
    cases m with
    | link | transport | failNext | reset => exact ⟨_, rfl⟩
    | host w =>
      rcases hostCommand_cases w { s with moves := rest } with ⟨i, -, h⟩ | ⟨e, -, h⟩
      · obtain ⟨t, ht⟩ := exists_exec_eq_next i { s with moves := rest }
        exact ⟨t, h.trans ht⟩
      · exact ⟨_, h⟩

/-! ## Every step of the machine -/

/-- R3, R73: the next state that a step answers, by the move it takes. -/
inductive MachineStep (s : State) : State → Prop where
  /-- R132. -/
  | idle (hm : s.moves = []) : MachineStep s s
  /-- R49. -/
  | link {bytes : Bytes} {rest : List Move} (hm : s.moves = .link bytes :: rest) :
      MachineStep s (linkMove bytes { s with moves := rest })
  /-- R51, R52. -/
  | transport {d : Draw} {rest : List Move} (hm : s.moves = .transport d :: rest) :
      MachineStep s (transportMove d { s with moves := rest })
  /-- R82. -/
  | failNext {rest : List Move} (hm : s.moves = .failNext :: rest) :
      MachineStep s (failNextMove { s with moves := rest })
  /-- R135. -/
  | reset {rest : List Move} (hm : s.moves = .reset :: rest) : MachineStep s (resetMove { s with moves := rest })
  /-- R115. -/
  | illegal {w : Word} {rest : List Move} (hm : s.moves = .host w :: rest) :
      MachineStep s { s with moves := rest }.raiseIllegal
  /-- R107. -/
  | process {rest : List Move} (d : Draw) (hm : s.moves = .host (encode .process) :: rest) :
      MachineStep s (processWith d { s with moves := rest })
  /-- R111. -/
  | register {rest : List Move} (p : Byte) (hm : s.moves = .host (encode (.register p)) :: rest) :
      MachineStep s
        { s with moves := rest, block := { s.block with reg := regSet s.block.reg p } }.respondOk
  /-- R112. -/
  | statsRead {w : Word} {rest : List Move} (n : CtrName) (hm : s.moves = .host w :: rest) :
      MachineStep s ({ s with moves := rest }.respond .ok (s.block.ctr.get n))
  /-- R114. -/
  | statsClear {rest : List Move} (hm : s.moves = .host (encode .statsClear) :: rest) :
      MachineStep s { s with moves := rest, block := { s.block with ctr := Counters.zero } }.respondOk

/-- The arms of `MachineStep` for a word that decodes. -/
theorem machineStep_of_exec {s t : State} {i : Instr} {rest : List Move} (hwf : i.wf = true)
    (hm : s.moves = .host (encode i) :: rest) (h : exec i { s with moves := rest } = .next t) : MachineStep s t := by
  cases i with
  | process => cases h; exact .process _ hm
  | register p => cases h; exact .register p hm
  | statsRead i =>
    obtain ⟨n, hn⟩ := exists_counterOf_of_lt (of_decide_eq_true hwf)
    rw [exec_statsRead hn] at h
    cases h
    exact .statsRead n hm
  | statsClear => cases h; exact .statsClear hm

/-- What a step answers is one of the arms. -/
theorem machineStep_of_step {s t : State} (h : step s = .next t) : MachineStep s t := by
  cases hm : s.moves with
  | nil =>
    rw [step_of_no_moves hm] at h
    cases h
    exact .idle hm
  | cons m rest =>
    rw [step_of_moves hm] at h
    cases m with
    | link bytes => cases h; exact .link hm
    | transport d => cases h; exact .transport hm
    | failNext => cases h; exact .failNext hm
    | reset => cases h; exact .reset hm
    | host w =>
      rcases hostCommand_cases w { s with moves := rest } with ⟨i, hi, hexec⟩ | ⟨e, he, hillegal⟩
      · obtain ⟨hwf, hw⟩ := wf_and_encode_of_decode hi
        exact machineStep_of_exec hwf (hw ▸ hm) (hexec ▸ h)
      · cases hillegal.symm.trans h
        exact .illegal hm

/-- R36: a `PROCESS` does not write the registry. -/
theorem processWith_reg (d : Draw) (s : State) : (processWith d s).block.reg = s.block.reg := by
  rcases processWith_forms d s with ⟨tr, h⟩ | ⟨tr, x, -, h⟩
  · rw [h]
    rfl
  · rw [h]
    exact drain_reg s.cfg (s.block.bufAppend x)

/-- Settles O51: the arms that keep the registry, that set one of its bits and that clear it. -/
theorem onlyRegisterAndResetWriteRegistry : Obligations.OnlyRegisterAndResetWriteRegistry := by
  intro s t h
  cases machineStep_of_step h with
  | idle | link | transport | failNext | illegal | statsRead | statsClear => exact .inl rfl
  | process d hm => exact .inl (processWith_reg d _)
  | register p hm => exact .inr (.inl ⟨p, _, hm, regBit_regSet s.block.reg p⟩)
  | reset hm => exact .inr (.inr ⟨_, hm, rfl⟩)

/-- Settles O52: the arms that keep the block, and those whose move is on the list. -/
theorem onlyTheseMovesChangeTheBlock : Obligations.OnlyTheseMovesChangeTheBlock := by
  intro s t h
  cases machineStep_of_step h with
  | idle | link | transport | failNext | illegal | statsRead | register => exact ⟨.inl rfl, .inl rfl⟩
  | process d hm => exact ⟨.inr ⟨_, _, hm, .inl rfl⟩, .inr ⟨_, _, hm, .inl rfl⟩⟩
  | statsClear hm => exact ⟨.inr ⟨_, _, hm, .inr (.inl rfl)⟩, .inl rfl⟩
  | reset hm => exact ⟨.inr ⟨_, _, hm, .inr (.inr rfl)⟩, .inr ⟨_, _, hm, .inr rfl⟩⟩

/-- R107: what a `PROCESS` adds to the observation and leaves of the rest. -/
theorem processWith_frame (d : Draw) (s : State) :
    (processWith d s).cfg = s.cfg ∧ (processWith d s).moves = s.moves ∧
      (∃ es, (processWith d s).obs.events = s.obs.events ++ es) ∧
      ∃ q, (processWith d s).obs.responses = s.obs.responses ++ [⟨q, 0⟩] := by
  rcases processWith_forms d s with ⟨tr, h⟩ | ⟨tr, x, -, h⟩
  · rw [h]
    exact ⟨rfl, rfl, ⟨[], (List.append_nil _).symm⟩, .ioError, rfl⟩
  · rw [h]
    exact ⟨rfl, rfl, ⟨_, rfl⟩, .ok, rfl⟩

/-- R73, R110: the statement of O53, of any arm: the moves, the events and the responses after it. -/
theorem MachineStep.observation {s t : State} (h : MachineStep s t) :
    t.cfg = s.cfg ∧ t.moves = s.moves.tail ∧
      (∃ es, t.obs.events = s.obs.events ++ es ∧
        (es ≠ [] → s.moves.head? = some (.host (encode .process)))) ∧
      ∃ rs, t.obs.responses = s.obs.responses ++ rs ∧
        rs.length = (match s.moves with | .host _ :: _ => 1 | _ => 0) := by
  have noEvents : ∃ es, s.obs.events = s.obs.events ++ es ∧
      (es ≠ [] → s.moves.head? = some (.host (encode .process))) :=
    ⟨[], (List.append_nil _).symm, fun hne => absurd rfl hne⟩
  cases h with
  | idle hm => exact ⟨rfl, by simp [hm], noEvents, [], (List.append_nil _).symm, by simp [hm]⟩
  | link hm | transport hm | failNext hm | reset hm =>
    exact ⟨rfl, by simp [hm, linkMove, transportMove, failNextMove, resetMove], noEvents, [],
      (List.append_nil _).symm, by simp [hm]⟩
  | illegal hm | register p hm | statsRead n hm | statsClear hm =>
    exact ⟨rfl, by rw [hm]; rfl, noEvents, _, rfl, by simp [hm]⟩
  | process d hm =>
    obtain ⟨hcfg, hmoves, ⟨es, hes⟩, q, hq⟩ := processWith_frame d { s with moves := _ }
    exact ⟨hcfg, by rw [hmoves, hm]; rfl, ⟨es, hes, fun _ => by simp [hm]⟩, _, hq, by simp [hm]⟩

/-- Settles O53: `MachineStep.observation` of the step's arm. -/
theorem stepsOnlyAddToTheObservation : Obligations.StepsOnlyAddToTheObservation :=
  fun _ _ h => (machineStep_of_step h).observation

/-! ## The invariant of the machine -/

section Invariant

variable {s t : State} {c : Config}

/-- R78: `(ILLEGAL, 0)`, `(IO_ERROR, 0)` and `(OK, 0)` have the format under every configuration. -/
theorem Response.fits_zero (q : Status) (c : Config) : Response.Fits ⟨q, 0⟩ c :=
  ⟨Nat.two_pow_pos c.ctrW, fun _ => rfl⟩

/-- R78: a response that has the format keeps the invariant. -/
theorem State.Inv.respond (h : s.Inv) {q : Status} {v : Nat} (hv : Response.Fits ⟨q, v⟩ s.cfg) :
    (s.respond q v).Inv := by
  obtain ⟨hblock, hfix, hctr, hevents, hresponses⟩ := h
  refine ⟨hblock, hfix, hctr, hevents, fun r hr => ?_⟩
  rcases List.mem_append.1 hr with hr | hr
  · exact hresponses r hr
  · rw [List.mem_singleton.1 hr]
    exact hv

/-- The block is all that the invariant says of the parts that are not observed. -/
theorem State.Inv.of_block_eq (h : s.Inv) (hcfg : t.cfg = s.cfg) (hobs : t.obs = s.obs)
    (hblock : t.block.Inv s.cfg ∧ t.block.AtFixpoint s.cfg ∧ t.block.ctr.Bounded s.cfg) : t.Inv := by
  obtain ⟨-, -, -, hevents, hresponses⟩ := h
  obtain ⟨hinv, hfix, hctr⟩ := hblock
  simp only [State.Inv, hcfg, hobs]
  exact ⟨hinv, hfix, hctr, hevents, hresponses⟩

/-- R24: whether a block rests does not depend on its counters and its registry. -/
theorem Block.AtFixpoint.with_ctr_reg {b : Block} (h : b.AtFixpoint c) (ctr : Counters) (reg : BitVec 256) :
    ({ b with ctr := ctr, reg := reg } : Block).AtFixpoint c := by
  have hshort : b.buf.length < b.window := Block.atFixpoint_iff.1 h
  exact Block.atFixpoint_iff.2 hshort

theorem Counters.zero_bounded (c : Config) : Counters.zero.Bounded c :=
  Counters.bounded_iff.2 fun n => by
    rw [Counters.zero_get]
    exact Nat.two_pow_pos c.ctrW

/-- R42: a reset block meets what the invariant asks of a block. -/
theorem Block.reset_inv (c : Config) :
    Block.reset.Inv c ∧ Block.reset.AtFixpoint c ∧ Block.reset.ctr.Bounded c :=
  ⟨Block.inv_of_searching rfl (Nat.zero_le _), Block.reset_atFixpoint c, Counters.zero_bounded c⟩

/-- R40, R107: the draining half of a `PROCESS` keeps the invariant and needs no rest before it. -/
theorem State.inv_drainAndRespond (hblock : s.block.Inv s.cfg) (hctr : s.block.ctr.Bounded s.cfg)
    (hevents : ∀ e ∈ s.obs.events, e.payload.length ≤ s.cfg.maxPayload)
    (hresponses : ∀ r ∈ s.obs.responses, r.Fits s.cfg) : s.drainAndRespond.Inv := by
  refine State.Inv.respond (s := { s with block := _ }.emit _ _) ?_ (Response.fits_zero .ok s.cfg)
  refine ⟨drain_inv hblock, drain_atFixpoint _ _, drain_bounded hctr, fun e he => ?_, hresponses⟩
  rcases List.mem_append.1 he with he | he
  · exact hevents e he
  · exact length_payload_le_of_mem_drain_events hblock he

/-- R107, R123: a `PROCESS` keeps the invariant, since it appends no more than fits. -/
theorem State.Inv.processWith (h : s.Inv) (d : Draw) : (processWith d s).Inv := by
  rcases processWith_forms d s with ⟨tr, heq⟩ | ⟨tr, x, hx, heq⟩
  · rw [heq]
    have hs : ({ s with transport := tr } : State).Inv := h
    exact hs.respond (Response.fits_zero .ioError s.cfg)
  · rw [heq]
    obtain ⟨hblock, -, hctr, hevents, hresponses⟩ := h
    have hcap := hblock.length_le
    exact State.inv_drainAndRespond (hblock.bufAppend (by omega)) hctr hevents hresponses

end Invariant

/-- Settles O54: every arm of a step keeps the invariant. -/
theorem everyStepKeepsTheInvariant : Obligations.EveryStepKeepsTheInvariant := by
  intro s t h hstep
  obtain ⟨hblock, hfix, hctr, -, -⟩ := id h
  cases machineStep_of_step hstep with
  | idle => exact h
  | link | transport | failNext => exact h.of_block_eq rfl rfl ⟨hblock, hfix, hctr⟩
  | reset => exact h.of_block_eq rfl rfl (Block.reset_inv s.cfg)
  | @illegal w rest hm =>
    have hs : ({ s with moves := rest } : State).Inv := h
    exact hs.respond (Response.fits_zero .illegal s.cfg)
  | @process rest d hm =>
    have hs : ({ s with moves := rest } : State).Inv := h
    exact hs.processWith d
  | @register rest p hm =>
    have hs : ({ s with moves := rest, block := { s.block with reg := regSet s.block.reg p } } : State).Inv :=
      h.of_block_eq rfl rfl ⟨hblock, hfix.with_ctr_reg _ _, hctr⟩
    exact hs.respond (Response.fits_zero .ok s.cfg)
  | @statsRead w rest n hm =>
    have hs : ({ s with moves := rest } : State).Inv := h
    exact hs.respond ⟨Counters.bounded_iff.1 hctr n, fun hq => absurd rfl hq⟩
  | @statsClear rest hm =>
    have hs : ({ s with moves := rest, block := { s.block with ctr := Counters.zero } } : State).Inv :=
      h.of_block_eq rfl rfl ⟨hblock, hfix.with_ctr_reg _ _, Counters.zero_bounded s.cfg⟩
    exact hs.respond (Response.fits_zero .ok s.cfg)

/-- Settles O55: the reset block meets the invariant, and nothing is observed yet. -/
theorem invariantAtReset : Obligations.InvariantAtReset := by
  have hreset : ∀ c : Config, (State.resetWith c).Inv := fun c => by
    obtain ⟨hblock, hfix, hctr⟩ := Block.reset_inv c
    exact ⟨hblock, hfix, hctr, by simp, by simp⟩
  exact ⟨hreset, hreset Config.deployed⟩

end Sys2Proof.Machine
end

section
/-! The frame codec (40_frame_codec.md): the two forms of the checksum, the checksum field, the reference encoder, and
the valid frames (30_encoding.md R71) field by field. -/

namespace Sys2Proof.Machine

/-! ## The two forms of the checksum -/

theorem reverse_xor {w : Nat} (x y : BitVec w) : (x ^^^ y).reverse = x.reverse ^^^ y.reverse := by
  ext i hi
  simp [BitVec.getElem_reverse]

theorem reverse_ushiftRight_one (v : Word) : (v >>> 1).reverse = v.reverse <<< 1 := by
  ext i hi
  cases i with
  | zero => simp [BitVec.getElem_reverse, BitVec.getMsbD]
  | succ i =>
    have hbelow : i < 16 := by omega
    have hmirror : 1 + (14 - i) = 15 - i := by omega
    simp [BitVec.getElem_reverse, BitVec.getMsbD, hi, hbelow, hmirror]

theorem reverse_setWidth_byte (x : Byte) : (x.setWidth 16).reverse = x.reverse.setWidth 16 <<< 8 := by
  ext i hi
  by_cases h : i < 8
  · simp [BitVec.getElem_reverse, h]
  · simp [BitVec.getElem_reverse, BitVec.getLsbD_reverse, h, Nat.le_of_not_lt h]

/-- R84: one bit of the one loop is one bit of the other, reversed. -/
theorem reverse_crcBit (v : Word) : (crcBit v).reverse = crcBitDirect v.reverse := by
  have hbit : v.reverse.getLsbD 15 = v.getLsbD 0 := BitVec.getLsbD_reverse
  have hpoly : (0xA001#16).reverse = 0x8005#16 := by decide
  unfold crcBit crcBitDirect
  rw [hbit]
  split
  · rw [reverse_xor, reverse_ushiftRight_one, hpoly]
  · rw [reverse_ushiftRight_one]

theorem reverse_crcByte (v : Word) (x : Byte) : (crcByte v x).reverse = crcByteDirect v.reverse x := by
  simp only [crcByte, crcByteDirect, reverse_crcBit, reverse_xor, reverse_setWidth_byte]

/-- R84: the registers of the two loops are each other's reversals after any bytes. -/
theorem reverse_crcFold (v : Word) (s : Bytes) : (crcFold v s).reverse = s.foldl crcByteDirect v.reverse := by
  induction s generalizing v with
  | nil => rfl
  | cons x s ih => rw [crcFold_cons, ih, reverse_crcByte, List.foldl_cons]

/-- Settles O29: both loops start at all ones, which is its own reversal. -/
theorem bothChecksumFormsAgree : Obligations.BothChecksumFormsAgree := by
  intro c s
  have hstart : (0xFFFF#16).reverse = 0xFFFF#16 := by decide
  have hfold := reverse_crcFold 0xFFFF#16 s
  rw [hstart] at hfold
  rw [crc16, crc16Direct, ← hfold, BitVec.reverse_reverse_eq]

/-! ## The checksum field -/

/-- Settles O24: the two bytes do not overlap, so their union is their sum. -/
theorem checksumFieldIsLittleEndian : Obligations.ChecksumFieldIsLittleEndian := by
  intro lo hi
  have hlo := lo.isLt
  have hhi := hi.isLt
  have elo : lo.toNat % 2 ^ 16 = lo.toNat := by omega
  have ehi : hi.toNat % 2 ^ 16 * 2 ^ 8 % 2 ^ 16 = 2 ^ 8 * hi.toNat := by omega
  simp only [field16, BitVec.toNat_or, BitVec.toNat_shiftLeft, BitVec.toNat_setWidth, Nat.shiftLeft_eq]
  rw [elo, ehi, Nat.or_comm, ← Nat.two_pow_add_eq_or_of_lt (by omega)]
  omega

/-- R85: what stands in the checksum field is overwritten before the checksum is taken. -/
theorem zeroCrcField_set (s : Bytes) (x y : Byte) : zeroCrcField ((s.set 4 x).set 5 y) = zeroCrcField s := by
  rw [zeroCrcField, zeroCrcField, List.set_comm _ _ (show 5 ≠ 4 by decide), List.set_set, List.set_set]

/-- Settles O32: the two sequences agree once their checksum fields are zero. -/
theorem storedChecksumDoesNotCount : Obligations.StoredChecksumDoesNotCount := fun c s x y =>
  congrArg (crc16 c) (zeroCrcField_set s x y)

/-- R85: the checksum of a sequence that begins with a header. -/
theorem frameCrc_of_header (c : Config) (m0 m1 size port lo hi : Byte) (t : Bytes) :
    frameCrc c ([m0, m1, size, port, lo, hi] ++ t) = crc16 c ([m0, m1, size, port, 0#8, 0#8] ++ t) := rfl

/-- Settles O33: the checksum register runs through the three parts one after the other. -/
theorem incrementalChecksumIsFrameCrc : Obligations.IncrementalChecksumIsFrameCrc := by
  intro c m0 m1 size port lo hi s t
  rw [List.append_assoc, frameCrc_of_header, crc16, ← List.append_assoc, crcFold_append, crcFold_append]

/-! ## Valid frames and the encoder -/

/-- R63: a frame, field by field. -/
def frameOf (c : Config) (size port lo hi : Byte) (payload : Bytes) : Bytes :=
  [c.hm.b0, c.hm.b1, size, port, lo, hi] ++ payload ++ [c.tm.b0, c.tm.b1]

theorem length_frameOf (c : Config) (size port lo hi : Byte) (payload : Bytes) :
    (frameOf c size port lo hi payload).length = payload.length + 8 := by
  simp [frameOf]

/-- A sequence of at least `HDR_LEN` bytes is six bytes and a rest. -/
theorem exists_eq_header_append {s : Bytes} (h : hdrLen ≤ s.length) :
    ∃ m0 m1 size port lo hi t, s = [m0, m1, size, port, lo, hi] ++ t :=
  match s, h with
  | m0 :: m1 :: size :: port :: lo :: hi :: t, _ => ⟨m0, m1, size, port, lo, hi, t, rfl⟩

/-- A sequence two bytes longer than `n` is `n` bytes and the two. -/
theorem exists_eq_append_pair {t : Bytes} {n : Nat} (h : t.length = n + 2) :
    ∃ payload x y, t = payload ++ [x, y] ∧ payload.length = n := by
  have hdrop : (t.drop n).length = 2 := by rw [List.length_drop]; omega
  obtain ⟨x, y, hxy⟩ := List.length_eq_two.1 hdrop
  exact ⟨t.take n, x, y, by rw [← hxy, List.take_append_drop], by rw [List.length_take]; omega⟩

/-- R99: the trailer test of a sequence with header, payload of the declared size and two more bytes. -/
theorem magicAt_trailerOffset_append {m : Magic} {m0 m1 size port lo hi x y : Byte} {payload : Bytes}
    (h : payload.length = size.toNat) :
    magicAt m ([m0, m1, size, port, lo, hi] ++ (payload ++ [x, y])) (trailerOffset size) = true ↔
      x = m.b0 ∧ y = m.b1 := by
  simp [magicAt, byteAt, trailerOffset, hdrLen, ← h, Nat.add_assoc, Nat.add_comm 6]

/-- R63, R71: the valid frames are the sequences laid out as a frame, with an allowed size and the right checksum. -/
theorem validFrame_iff_exists {c : Config} {f : Bytes} :
    validFrame c f = true ↔
      ∃ size port lo hi payload, f = frameOf c size port lo hi payload ∧ payload.length = size.toNat ∧
        size.toNat ≤ c.maxPayload ∧ field16 lo hi = frameCrc c f := by
  rw [validFrame_iff]
  constructor
  · rintro ⟨hlen, hhead, hsize, hframe, htrailer, hcrc⟩
    obtain ⟨m0, m1, size, port, lo, hi, t, rfl⟩ := exists_eq_header_append (Nat.le_trans (by decide) hlen)
    have ht : t.length = size.toNat + 2 := by
      have : t.length + 6 = 6 + size.toNat + 2 := hframe
      omega
    obtain ⟨payload, x, y, rfl, hpayload⟩ := exists_eq_append_pair ht
    obtain ⟨rfl, rfl⟩ := (magicAt_trailerOffset_append hpayload).1 htrailer
    obtain ⟨rfl, rfl⟩ : m0 = c.hm.b0 ∧ m1 = c.hm.b1 := by simpa [magicAt, byteAt] using hhead
    exact ⟨size, port, lo, hi, payload, rfl, hpayload, hsize, hcrc⟩
  · rintro ⟨size, port, lo, hi, payload, rfl, hpayload, hsize, hcrc⟩
    have hlen := length_frameOf c size port lo hi payload
    refine ⟨by omega, by simp [magicAt, byteAt, frameOf], hsize, ?_, ?_, hcrc⟩
    · have : frameLen size = 6 + size.toNat + 2 := rfl
      rw [hlen, hpayload]
      exact (this.trans (by omega)).symm
    · exact (magicAt_trailerOffset_append hpayload).2 ⟨rfl, rfl⟩

/-- R87: what the encoder gives for an allowed payload. -/
theorem encodeFrame_of_le {c : Config} (port : Byte) {payload : Bytes} (h : payload.length ≤ c.maxPayload) :
    ∃ lo hi, field16 lo hi = crc16 c (blankFrame c port payload) ∧
      encodeFrame c port payload = some (frameOf c (BitVec.ofNat 8 payload.length) port lo hi payload) :=
  ⟨lowByte (crc16 c (blankFrame c port payload)), highByte (crc16 c (blankFrame c port payload)),
    field16_bytes _, if_pos h⟩

/-- Settles O30: the encoder's one test, and the two bytes of the checksum. -/
theorem encoderLaysOutTheFrame : Obligations.EncoderLaysOutTheFrame :=
  fun _ port _ => ⟨fun hlong => if_neg (Nat.not_le.2 hlong), encodeFrame_of_le port⟩

/-- R87, R88: an encoded frame is laid out as a frame, its size is the payload's, and its checksum is its own. -/
theorem exists_frameOf_of_encodeFrame {c : Config} {port : Byte} {payload f : Bytes}
    (h : encodeFrame c port payload = some f) :
    ∃ size lo hi, f = frameOf c size port lo hi payload ∧ payload.length = size.toNat ∧
      size.toNat ≤ c.maxPayload ∧ field16 lo hi = frameCrc c f := by
  have hle : payload.length ≤ c.maxPayload := (encodeFrame_isSome_iff c port payload).1 (by simp [h])
  obtain ⟨lo, hi, hcrc, henc⟩ := encodeFrame_of_le port hle
  obtain rfl : f = frameOf c (BitVec.ofNat 8 payload.length) port lo hi payload := by
    simpa using h.symm.trans henc
  have hmax := c.maxPayload_le
  have hsize : (BitVec.ofNat 8 payload.length).toNat = payload.length := by
    rw [BitVec.toNat_ofNat, Nat.mod_eq_of_lt (by omega)]
  exact ⟨_, lo, hi, rfl, hsize.symm, hsize.symm ▸ hle, hcrc⟩

/-- Settles O31: the encoder's layout is the one that makes a frame valid. -/
theorem encodedFramesAreValid : Obligations.EncodedFramesAreValid := by
  intro c port payload f h
  obtain ⟨size, lo, hi, hf, hfields⟩ := exists_frameOf_of_encodeFrame h
  exact validFrame_iff_exists.2 ⟨size, port, lo, hi, payload, hf, hfields⟩

end Sys2Proof.Machine
end

section
/-! Frames in the receiver (41_receiver_fsm.md R106, 42_host_operations.md R109, R116, R117): a valid frame at the head
of the buffer, behind noise and in one `PROCESS`; and the hazards at a magic's edge (70_reset_and_hazards.md R147,
R149). -/

namespace Sys2Proof.Machine

/-! ## A frame at the head of the buffer -/

/-- R101: what is left of `b` when the frame of `port` and `payload` in front of `rest` has been accepted. -/
structure Block.Accepted (c : Config) (b : Block) (port : Byte) (payload rest : Bytes) (b' : Block) : Prop where
  st : b'.st = .searchingSync
  buf : b'.buf = rest
  reg : b'.reg = b.reg
  ctr : b'.ctr =
    if regBit b.reg port then (b.ctr.add c .rcvMsgs 1).add c .rcvBytes (payload.length + 8)
    else ((b.ctr.add c .rcvMsgs 1).add c .rcvBytes (payload.length + 8)).add c .noReceiver 1

/-- R101: the outcome of the step that accepts a frame. -/
def acceptOutcome (b : Block) (port : Byte) : StepOutcome :=
  if regBit b.reg port then .frameDispatched else .frameNoReceiver

/-- R101: the event of the step that accepts a frame. -/
def acceptEvent (b : Block) (port : Byte) (payload : Bytes) : Option Dispatch :=
  if regBit b.reg port then some { port := port, payload := payload } else none

section Frame

variable {c : Config} {b : Block} {size port lo hi : Byte} {payload rest : Bytes}

/-- R97: the block once the header of a frame is accepted. -/
def Block.withHeader (b : Block) (size port lo hi : Byte) : Block :=
  { b with
    st := .awaitingBody, hSize := size, hPort := port, hCrc := field16 lo hi
    fLen := BitVec.ofNat 9 (frameLen size) }

theorem frameOf_append (c : Config) (size port lo hi : Byte) (payload rest : Bytes) :
    frameOf c size port lo hi payload ++ rest =
      [c.hm.b0, c.hm.b1, size, port, lo, hi] ++ (payload ++ [c.tm.b0, c.tm.b1] ++ rest) := by
  simp [frameOf]

theorem rxStep_of_frame_header (hst : b.st = .awaitingHeader)
    (hbuf : b.buf = frameOf c size port lo hi payload ++ rest) (hsize : size.toNat ≤ c.maxPayload) :
    rxStep c b = { outcome := .hdrOk, block := b.withHeader size port lo hi, event := none } := by
  rw [rxStep_header hst, stepHeader_of_buf (hbuf.trans (frameOf_append ..)), stepHeaderCaptured_of_fits hsize]
  rfl

theorem payloadOf_frameOf_append (hpayload : payload.length = size.toNat) :
    payloadOf (frameOf c size port lo hi payload ++ rest) size = payload := by
  simp [payloadOf_eq, frameOf, ← hpayload]

/-- R98 to R101: the step in the body of a frame passes both checks. -/
theorem rxStep_of_frame_body (hbuf : b.buf = frameOf c size port lo hi payload ++ rest)
    (hpayload : payload.length = size.toNat)
    (hcrc : field16 lo hi = frameCrc c (frameOf c size port lo hi payload)) :
    rxStep c (b.withHeader size port lo hi) = stepAccept c (b.withHeader size port lo hi) := by
  have hframe := length_frameOf c size port lo hi payload
  have hfLen : (b.withHeader size port lo hi).fLen.toNat = (frameOf c size port lo hi payload).length := by
    rw [hframe, hpayload, Nat.add_comm]
    exact toNat_ofNat_frameLen size
  have hbuf' : (b.withHeader size port lo hi).buf = frameOf c size port lo hi payload ++ rest := hbuf
  have htrailer : magicAt c.tm (frameOf c size port lo hi payload) (trailerOffset size) = true :=
    (magicAt_trailerOffset_append hpayload).2 ⟨rfl, rfl⟩
  have hoffset : trailerOffset size + 1 < (frameOf c size port lo hi payload).length := by
    simp only [trailerOffset, hdrLen]
    omega
  rw [rxStep_body rfl]
  apply stepBody_of_valid
  · rw [hfLen, hbuf', List.length_append]
    omega
  · rw [hbuf']
    exact (magicAt_append rest hoffset).trans htrailer
  · rw [hfLen, hbuf', List.take_left]
    exact hcrc.symm

/-- R101: what accepting the frame answers. -/
theorem stepAccept_of_frame (hbuf : b.buf = frameOf c size port lo hi payload ++ rest)
    (hpayload : payload.length = size.toNat) :
    ∃ b', stepAccept c (b.withHeader size port lo hi) =
        { outcome := acceptOutcome b port, block := b', event := acceptEvent b port payload } ∧
      Block.Accepted c b port payload rest b' := by
  have hframe := length_frameOf c size port lo hi payload
  have hfLen : (b.withHeader size port lo hi).fLen.toNat = payload.length + 8 := by
    rw [hpayload, Nat.add_comm]
    exact toNat_ofNat_frameLen size
  have hdrop : (b.withHeader size port lo hi).buf.drop (b.withHeader size port lo hi).fLen.toNat = rest := by
    rw [hfLen, ← hframe]
    exact hbuf ▸ List.drop_left
  have hpay : payloadOf (b.withHeader size port lo hi).buf size = payload :=
    hbuf ▸ payloadOf_frameOf_append hpayload
  rw [acceptOutcome, acceptEvent]
  cases hreg : regBit b.reg port with
  | true =>
    refine ⟨((b.withHeader size port lo hi).countFrame c).consumeFrame, ?_, rfl, hdrop, rfl, ?_⟩
    · have haccept := stepAccept_of_registered (c := c) (b := b.withHeader size port lo hi) hreg
      exact haccept.trans (congrArg (fun p => StepResult.mk _ _ (some ⟨port, p⟩)) hpay)
    · simp only [Block.consumeFrame_ctr, Block.countFrame_ctr, hfLen, hreg, if_true]
      rfl
  | false =>
    refine ⟨(((b.withHeader size port lo hi).countFrame c).count c .noReceiver 1).consumeFrame,
      stepAccept_of_unregistered (b := b.withHeader size port lo hi) hreg, rfl, hdrop, rfl, ?_⟩
    simp only [Block.consumeFrame_ctr, Block.count_ctr, Block.countFrame_ctr, hfLen, hreg]
    rfl

/-- R71, R106: a valid frame at the head of the buffer is accepted by the next two steps. -/
theorem rxStep_rxStep_of_frame (hst : b.st = .awaitingHeader)
    (hbuf : b.buf = frameOf c size port lo hi payload ++ rest) (hpayload : payload.length = size.toNat)
    (hsize : size.toNat ≤ c.maxPayload)
    (hcrc : field16 lo hi = frameCrc c (frameOf c size port lo hi payload)) :
    ∃ b₁ b₂, rxStep c b = { outcome := .hdrOk, block := b₁, event := none } ∧
      rxStep c b₁ = { outcome := acceptOutcome b port, block := b₂, event := acceptEvent b port payload } ∧
      Block.Accepted c b port payload rest b₂ := by
  obtain ⟨b₂, haccept, hb₂⟩ := stepAccept_of_frame hbuf hpayload
  exact ⟨_, b₂, rxStep_of_frame_header hst hbuf hsize, (rxStep_of_frame_body hbuf hpayload hcrc).trans haccept, hb₂⟩

theorem frameOf_getD_three : (frameOf c size port lo hi payload).getD 3 0#8 = port := rfl

theorem frameOf_payload :
    ((frameOf c size port lo hi payload).drop 6).take ((frameOf c size port lo hi payload).length - 8) = payload := by
  simp [frameOf]

/-- Settles O34: the frame is laid out field by field, and the two steps are those of its header and its body. -/
theorem validFrameAtHeadIsAccepted : Obligations.ValidFrameAtHeadIsAccepted := by
  intro c b f rest hst hvalid hbuf
  obtain ⟨size, port, lo, hi, payload, rfl, hpayload, hsize, hcrc⟩ := validFrame_iff_exists.1 hvalid
  obtain ⟨b₁, b₂, hheader, hbody, hb₂⟩ := rxStep_rxStep_of_frame hst hbuf hpayload hsize hcrc
  simp only [hheader, hbody, frameOf_getD_three, frameOf_payload, true_and]
  exact ⟨hb₂.st, hb₂.buf, rfl, rfl⟩

/-! ## One drain over a frame -/

theorem acceptOutcome_progress (b : Block) (port : Byte) : (acceptOutcome b port).progress = true := by
  unfold acceptOutcome
  split <;> rfl

theorem Block.atFixpoint_of_empty (hst : b.st = .searchingSync) (hbuf : b.buf = []) : b.AtFixpoint c := by
  rw [Block.atFixpoint_iff, Block.window_of_searching hst, hbuf]
  decide

/-- R104, R106: a drain of a buffer that holds exactly one valid frame accepts it. -/
theorem drain_of_frame (hst : b.st = .awaitingHeader) (hbuf : b.buf = frameOf c size port lo hi payload)
    (hpayload : payload.length = size.toNat) (hsize : size.toNat ≤ c.maxPayload)
    (hcrc : field16 lo hi = frameCrc c (frameOf c size port lo hi payload)) :
    (drain c b).events = (acceptEvent b port payload).toList ∧
      Block.Accepted c b port payload [] (drain c b).block := by
  have hbuf' : b.buf = frameOf c size port lo hi payload ++ [] := hbuf.trans (List.append_nil _).symm
  obtain ⟨b₁, b₂, hheader, hbody, hb₂⟩ := rxStep_rxStep_of_frame hst hbuf' hpayload hsize hcrc
  have hrest : b₂.AtFixpoint c := Block.atFixpoint_of_empty hb₂.st hb₂.buf
  rw [drain_of_rxStep_eq hheader rfl, drain_of_rxStep_eq hbody (acceptOutcome_progress b port),
    drain_of_atFixpoint hrest]
  exact ⟨by simp, hb₂⟩

/-- R93: the counters once the noise in front of a frame is dropped; no step drops where there is none. -/
def noiseCounters (c : Config) (ctr : Counters) (noise : Bytes) : Counters :=
  if noise = [] then ctr else ctr.add c .droppedBytes noise.length

/-- R92, R93: the step over noise and then a magic drops the noise and stands at the magic. -/
theorem rxStep_of_noise {noise f : Bytes} (hst : b.st = .searchingSync) (hbuf : b.buf = noise ++ f)
    (hnoise : ∀ i < noise.length, ¬ MagicStands c.hm (noise ++ f) i) (hf : MagicStands c.hm f 0) :
    ∃ o : StepOutcome, o.progress = true ∧ rxStep c b =
      { outcome := o
        block := { b with st := .awaitingHeader, buf := f, ctr := noiseCounters c b.ctr noise }
        event := none } := by
  have hstands : MagicStands c.hm b.buf noise.length := by
    rw [hbuf, MagicStands, List.getElem?_append_right (Nat.le_refl _), List.getElem?_append_right (by omega)]
    simpa [MagicStands] using hf
  obtain ⟨hzero, hskip⟩ := scannerStopsAtFirstMagic c b noise.length hst hstands (hbuf ▸ hnoise)
  by_cases hempty : noise = []
  · subst hempty
    obtain rfl : b.buf = f := hbuf
    exact ⟨.syncHead, rfl, hzero rfl⟩
  · refine ⟨.syncSkip, rfl, (hskip (List.length_pos_iff.2 hempty)).trans ?_⟩
    rw [hbuf, List.drop_left, noiseCounters, if_neg hempty, Counters.add_droppedBytes]

/-- R109: a drain over noise and then a valid frame finds the frame. -/
theorem drain_of_noise_frame {noise : Bytes} (hst : b.st = .searchingSync)
    (hbuf : b.buf = noise ++ frameOf c size port lo hi payload)
    (hnoise : ∀ i < noise.length, ¬ MagicStands c.hm (noise ++ frameOf c size port lo hi payload) i)
    (hpayload : payload.length = size.toNat) (hsize : size.toNat ≤ c.maxPayload)
    (hcrc : field16 lo hi = frameCrc c (frameOf c size port lo hi payload)) :
    (drain c b).events = (acceptEvent b port payload).toList ∧
      Block.Accepted c { b with ctr := noiseCounters c b.ctr noise } port payload [] (drain c b).block := by
  obtain ⟨o, ho, hstep⟩ := rxStep_of_noise hst hbuf hnoise ⟨rfl, rfl⟩
  have hframe := drain_of_frame (c := c) (size := size) (port := port) (lo := lo) (hi := hi) (payload := payload)
    (b := (rxStep c b).block) (by rw [hstep]) (by rw [hstep]) hpayload hsize hcrc
  rw [hstep] at hframe
  obtain ⟨hevents, hb₁⟩ := hframe
  rw [drain_of_rxStep_eq hstep ho]
  exact ⟨hevents, hb₁.st, hb₁.buf, hb₁.reg, hb₁.ctr⟩

end Frame

theorem noiseCounters_droppedBytes (c : Config) (ctr : Counters) (noise : Bytes) :
    (noiseCounters c ctr noise).droppedBytes =
      if noise = [] then ctr.droppedBytes else wrapAdd c ctr.droppedBytes noise.length := by
  unfold noiseCounters
  split <;> rfl

/-- R93: of the counters, noise touches the dropped bytes alone. -/
theorem noiseCounters_received (c : Config) (ctr : Counters) (noise : Bytes) :
    (noiseCounters c ctr noise).rcvMsgs = ctr.rcvMsgs ∧ (noiseCounters c ctr noise).rcvBytes = ctr.rcvBytes := by
  unfold noiseCounters
  split <;> exact ⟨rfl, rfl⟩

/-- R101: of the counters, an accepted frame touches the dropped bytes not at all, and counts itself. -/
theorem Block.Accepted.counts {c : Config} {b b' : Block} {port : Byte} {payload rest : Bytes}
    (h : b.Accepted c port payload rest b') :
    b'.ctr.droppedBytes = b.ctr.droppedBytes ∧ b'.ctr.rcvMsgs = wrapAdd c b.ctr.rcvMsgs 1 ∧
      b'.ctr.rcvBytes = wrapAdd c b.ctr.rcvBytes (payload.length + 8) := by
  rw [h.ctr]
  split <;> exact ⟨rfl, rfl, rfl⟩

/-- Settles O35: one step over the noise, two over the frame, and the empty buffer rests. -/
theorem frameBehindNoiseIsFound : Obligations.FrameBehindNoiseIsFound := by
  intro c b noise f hst hempty hvalid hnoise
  obtain ⟨size, port, lo, hi, payload, rfl, hpayload, hsize, hcrc⟩ := validFrame_iff_exists.1 hvalid
  have hbuf : (b.bufAppend (noise ++ frameOf c size port lo hi payload)).buf =
      noise ++ frameOf c size port lo hi payload := by simp [hempty]
  obtain ⟨hevents, hb⟩ := drain_of_noise_frame (b := b.bufAppend (noise ++ frameOf c size port lo hi payload)) hst hbuf
    hnoise hpayload hsize hcrc
  obtain ⟨hdropped, hmsgs, hbytes⟩ := hb.counts
  obtain ⟨hnoiseMsgs, hnoiseBytes⟩ := noiseCounters_received c b.ctr noise
  refine ⟨hb.st, hb.buf, hdropped.trans (noiseCounters_droppedBytes c b.ctr noise), ?_, ?_, ?_⟩
  · exact hmsgs.trans (congrArg (wrapAdd c · 1) hnoiseMsgs)
  · rw [length_frameOf]
    exact hbytes.trans (congrArg (wrapAdd c · (payload.length + 8)) hnoiseBytes)
  · rw [frameOf_getD_three, frameOf_payload, hevents, acceptEvent, apply_ite Option.toList]
    rfl

/-! ## One `PROCESS` over an encoded frame -/

section RoundTrip

variable {c : Config} {port : Byte} {payload f : Bytes}

/-- R116, R117: the state from which the round trip starts: reset, but for the registry and what `T` holds. -/
def roundTripStart (c : Config) (reg : BitVec 256) (f : Bytes) : State :=
  { State.resetWith c with
    block := { Block.reset with reg := reg }, transport := { fifo := f, draws := [] } }

/-- R12, R14: a frame fits an empty buffer. -/
theorem length_le_bufCap_of_encodeFrame (h : encodeFrame c port payload = some f) : f.length ≤ c.bufCap := by
  obtain ⟨size, lo, hi, -, hpayload, hsize, -⟩ := exists_frameOf_of_encodeFrame h
  have hlen := length_of_encodeFrame h
  have hmax : 6 + c.maxPayload + 2 ≤ c.bufCap := c.maxFrame_le_bufCap
  omega

/-- R107, R116: the `PROCESS` reads the whole frame and drains it. -/
theorem exec_process_roundTripStart (reg : BitVec 256) (h : encodeFrame c port payload = some f) :
    ∃ t, exec .process (roundTripStart c reg f) = .next t ∧
      t.block = (drain c { Block.reset with buf := f, reg := reg }).block ∧
      t.obs.events = (drain c { Block.reset with buf := f, reg := reg }).events ∧
      t.obs.responses = [⟨.ok, 0⟩] ∧ t.transport.fifo = [] := by
  have hrequest : (roundTripStart c reg f).readRequest = f.length :=
    Nat.min_eq_left (length_le_bufCap_of_encodeFrame h)
  refine ⟨_, processReadsAppendsAndDrains (roundTripStart c reg f) rfl rfl, ?_⟩
  simp only [show (roundTripStart c reg f).transport.nextDraw.read = .full from rfl, ReadDraw.answerLength, hrequest]
  simp only [roundTripStart, List.take_length, List.drop_length]
  exact ⟨rfl, rfl, rfl, rfl⟩

/-- R116, R117: the drain of the round trip accepts the frame. -/
theorem drain_of_encodeFrame (reg : BitVec 256) (h : encodeFrame c port payload = some f) :
    (drain c { Block.reset with buf := f, reg := reg }).events =
        (acceptEvent { Block.reset with buf := f, reg := reg } port payload).toList ∧
      Block.Accepted c { Block.reset with buf := f, reg := reg } port payload []
        (drain c { Block.reset with buf := f, reg := reg }).block := by
  obtain ⟨size, lo, hi, rfl, hpayload, hsize, hcrc⟩ := exists_frameOf_of_encodeFrame h
  exact drain_of_noise_frame (noise := []) rfl rfl (fun i hi => absurd hi (Nat.not_lt_zero i)) hpayload hsize hcrc

/-- R33: the first frame after reset is counted without a wrap. -/
theorem zero_add_frame (hwrap : payload.length + 8 < 2 ^ c.ctrW) :
    (Counters.zero.add c .rcvMsgs 1).add c .rcvBytes (payload.length + 8) =
      { rcvMsgs := 1, rcvBytes := payload.length + 8, droppedBytes := 0, crcErr := 0, sizeErr := 0, trailerErr := 0
        noReceiver := 0 } := by
  have hone := Nat.mod_eq_of_lt c.one_lt_two_pow_ctrW
  have hbytes := Nat.mod_eq_of_lt hwrap
  simp [Counters.add_rcvMsgs, Counters.add_rcvBytes, Counters.zero, wrapAdd, hone, hbytes]

/-- Settles O42: the frame is accepted behind no noise, and its event is the registered port's. -/
theorem encodedFrameComesOutAgain : Obligations.EncodedFrameComesOutAgain := by
  intro c port payload f reg h hreg hwrap
  have hreg : regBit reg port = true := hreg
  obtain ⟨t, hexec, hblock, hevents, hresponses, hfifo⟩ := exec_process_roundTripStart reg h
  obtain ⟨hdrained, hb⟩ := drain_of_encodeFrame reg h
  rw [← hblock] at hb
  have hctr := hb.ctr
  simp only [hreg, if_true, Block.reset_ctr, zero_add_frame hwrap] at hctr
  refine ⟨t, hexec, ?_, hresponses, hctr, hb.st, hb.buf, hb.reg, hfifo⟩
  rw [hevents, hdrained, acceptEvent, if_pos hreg]
  rfl

/-- Settles O43: the same run, which counts the frame as having no receiver in place of its event. -/
theorem unregisteredPortIsCounted : Obligations.UnregisteredPortIsCounted := by
  intro c port payload f reg h hreg hwrap
  have hreg : ¬ regBit reg port = true := Bool.eq_false_iff.1 hreg
  obtain ⟨t, hexec, hblock, hevents, hresponses, hfifo⟩ := exec_process_roundTripStart reg h
  obtain ⟨hdrained, hb⟩ := drain_of_encodeFrame reg h
  have hone := Nat.mod_eq_of_lt c.one_lt_two_pow_ctrW
  rw [← hblock] at hb
  have hctr := hb.ctr
  simp only [if_neg hreg, Block.reset_ctr, zero_add_frame hwrap, Counters.add_noReceiver, wrapAdd, Nat.zero_add,
    hone] at hctr
  refine ⟨t, hexec, ?_, hresponses, hctr, hb.st, hb.buf, hb.reg, hfifo⟩
  rw [hevents, hdrained, acceptEvent, if_neg hreg]
  rfl

end RoundTrip

/-! ## Hazards at the edge of a magic -/

/-- R92: a sequence that begins with the magic. -/
theorem findSync_cons_cons {m : Magic} (rest : Bytes) : findSync m (m.b0 :: m.b1 :: rest) = some 0 :=
  findSync_eq_some_iff.2 ⟨⟨rfl, rfl⟩, fun i hi => absurd hi (Nat.not_lt_zero i)⟩

/-- R94, R147: a drain of bytes without a magic that end in its first byte leaves that byte. -/
theorem drain_of_split_magic {c : Config} {b : Block} {s : Bytes} (hst : b.st = .searchingSync)
    (hbuf : b.buf = s ++ [c.hm.b0]) (hnone : ∀ i, ¬ MagicStands c.hm b.buf i) :
    (drain c b).block.st = .searchingSync ∧ (drain c b).block.buf = [c.hm.b0] ∧ (drain c b).events = [] := by
  have atRest : ∀ b' : Block, b'.st = .searchingSync → b'.buf = [c.hm.b0] → b'.AtFixpoint c := fun b' hst' hbuf' => by
    rw [Block.atFixpoint_iff, Block.window_of_searching hst', hbuf']
    exact Nat.one_lt_two
  by_cases hs : s = []
  · subst hs
    rw [drain_of_atFixpoint (atRest b hst hbuf)]
    exact ⟨hst, hbuf, rfl⟩
  · have hstep := (scannerDropsWithoutMagic c b s c.hm.b0 hst hbuf hs hnone).1 (.inr rfl)
    have hrest := atRest (rxStep c b).block ((congrArg (·.block.st) hstep).trans hst) (congrArg (·.block.buf) hstep)
    rw [hstep] at hrest
    rw [drain_of_rxStep_eq hstep rfl, drain_of_atFixpoint hrest]
    exact ⟨hst, rfl, rfl⟩

/-- Settles O49: the first byte is kept, and with the second one behind it the magic stands at offset 0. -/
theorem splitMagicIsFound : Obligations.SplitMagicIsFound := by
  intro c b s rest hst hnone
  rw [List.append_assoc] at hnone
  obtain ⟨hst', hbuf', hevents⟩ := drain_of_split_magic (b := b.bufAppend (s ++ [c.hm.b0])) (s := b.buf ++ s) hst
    (List.append_assoc ..).symm hnone
  have hfound : findSync c.hm ((drain c (b.bufAppend (s ++ [c.hm.b0]))).block.bufAppend (c.hm.b1 :: rest)).buf =
      some 0 := by
    rw [Block.bufAppend_buf, hbuf']
    exact findSync_cons_cons rest
  exact ⟨hst', hbuf', hevents, congrArg StepResult.outcome (RxArm.syncHead (by exact hst') hfound).rxStep_eq⟩

/-- Settles O50: the stray byte and the frame's first byte are taken for a magic, and the frame's second byte for a
size. -/
theorem strayMagicByteCostsTheFrame : Obligations.StrayMagicByteCostsTheFrame := by
  intro c b f rest heq hbig hvalid hst hbuf
  obtain ⟨size, port, lo, hi, payload, rfl, -⟩ := validFrame_iff_exists.1 hvalid
  have hbuf' : b.buf = [c.hm.b0, c.hm.b0, c.hm.b1, size, port, lo] ++
      ([hi] ++ payload ++ [c.tm.b0, c.tm.b1] ++ rest) := by
    simp [hbuf, frameOf]
  have hfound : findSync c.hm b.buf = some 0 := by
    have hmagic := findSync_cons_cons (m := c.hm) (b.buf.drop 2)
    rw [← heq] at hmagic
    rwa [hbuf'] at hmagic ⊢
  have hfirst := (RxArm.syncHead hst hfound).rxStep_eq
  have hsecond := oversizedHeaderRecovers c (b.goto .awaitingHeader) _ _ _ _ _ _ _ rfl hbuf' (heq ▸ hbig)
  simp only [hfirst, hsecond, true_and]
  simp [frameOf]

end Sys2Proof.Machine
end

section
/-! Isolation (10_state.md R35, 42_host_operations.md R114, 70_reset_and_hazards.md R142): the counters decide nothing,
and the registry only which validated frames are emitted. Each is a simulation: a lemma for one step, carried through the
drain. -/

namespace Sys2Proof.Machine

section Isolation

variable {c : Config} {b : Block} {r : StepResult}

/-! ## The counters -/

/-- R142: with other counters a step does the same. -/
theorem RxArm.with_ctr (h : RxArm c b r) (ctr : Counters) :
    ∃ ctr', RxArm c { b with ctr := ctr } { r with block := { r.block with ctr := ctr' } } := by
  cases h with
  | wait hshort => exact ⟨ctr, .wait hshort⟩
  | syncHead hst hk => exact ⟨ctr, .syncHead hst hk⟩
  | syncSkip k hst hpos hk => exact ⟨ctr.add c .droppedBytes k, .syncSkip k hst hpos hk⟩
  | nosyncDrop hst hlen hnone =>
    exact ⟨ctr.add c .droppedBytes (nosyncCount c b.buf), .nosyncDrop hst hlen hnone⟩
  | hdrOk hst hlen hsize => exact ⟨ctr, .hdrOk hst hlen hsize⟩
  | errSize hst hlen hsize =>
    exact ⟨(ctr.add c .sizeErr 1).add c .droppedBytes magicW, .errSize hst hlen hsize⟩
  | errTrailer hst hlen ht =>
    exact ⟨(ctr.add c .trailerErr 1).add c .droppedBytes magicW, .errTrailer hst hlen ht⟩
  | errCrc hst hlen ht hcrc =>
    exact ⟨(ctr.add c .crcErr 1).add c .droppedBytes magicW, .errCrc hst hlen ht hcrc⟩
  | frameDispatched hst hlen ht hcrc hreg =>
    exact ⟨(ctr.add c .rcvMsgs 1).add c .rcvBytes b.fLen.toNat, .frameDispatched hst hlen ht hcrc hreg⟩
  | frameNoReceiver hst hlen ht hcrc hreg =>
    exact ⟨((ctr.add c .rcvMsgs 1).add c .rcvBytes b.fLen.toNat).add c .noReceiver 1,
      .frameNoReceiver hst hlen ht hcrc hreg⟩

/-- R142: with other counters a drain does the same. -/
theorem drain_with_ctr (c : Config) (b : Block) (ctr : Counters) :
    ∃ ctr', drain c { b with ctr := ctr } =
      { drain c b with block := { (drain c b).block with ctr := ctr' } } := by
  induction b using Block.induction_on_steps c generalizing ctr with
  | rest b h =>
    have h' : ({ b with ctr := ctr } : Block).AtFixpoint c := h.with_ctr_reg ctr b.reg
    exact ⟨ctr, by rw [drain_of_atFixpoint h, drain_of_atFixpoint h']⟩
  | more b hp ih =>
    obtain ⟨ctr₁, harm⟩ := (rxStep_arm c b).with_ctr ctr
    obtain ⟨ctr₂, hdrain⟩ := ih ctr₁
    refine ⟨ctr₂, ?_⟩
    rw [drain_of_rxStep_eq harm.rxStep_eq hp, drain_of_progress hp, hdrain]
    rfl

/-- Settles O47: the drain with other counters is the same drain but for them. -/
theorem countersDoNotAffectFraming : Obligations.CountersDoNotAffectFraming := by
  intro c b ctr
  obtain ⟨ctr', hdrain⟩ := drain_with_ctr c b ctr
  simp only [hdrain, and_self]

/-! ## The registry -/

/-- A block with another registry, and what the no-receiver counter has come to under it. -/
def Block.withRegistry (b : Block) (reg : BitVec 256) (n : Nat) : Block :=
  { b with reg := reg, ctr := { b.ctr with noReceiver := n } }

/-- R101: with another registry a frame is accepted as well, and its event is decided by that registry. -/
theorem RxArm.accept_withRegistry (hst : b.st = .awaitingBody) (hlen : b.fLen.toNat ≤ b.buf.length)
    (ht : magicAt c.tm b.buf (trailerOffset b.hSize) = true)
    (hcrc : frameCrc c (b.buf.take b.fLen.toNat) = b.hCrc) (reg : BitVec 256) (n : Nat) :
    ∃ r' n', RxArm c (b.withRegistry reg n) r' ∧ r'.block = (b.countFrame c).consumeFrame.withRegistry reg n' ∧
      r'.outcome.framing = .frameDispatched ∧
      r'.event = if regBit reg b.hPort then some ⟨b.hPort, payloadOf b.buf b.hSize⟩ else none := by
  cases hreg : regBit reg b.hPort with
  | true => exact ⟨_, n, .frameDispatched hst hlen ht hcrc hreg, rfl, rfl, rfl⟩
  | false => exact ⟨_, wrapAdd c n 1, .frameNoReceiver hst hlen ht hcrc hreg, rfl, rfl, rfl⟩

/-- R35, R60, R101: with another registry a step does the same, but for which of the two accepting outcomes it has; an
event for a port of both registries is the same. -/
theorem RxArm.withRegistry (h : RxArm c b r) (reg : BitVec 256) (n : Nat) :
    ∃ r' n', RxArm c (b.withRegistry reg n) r' ∧ r'.block = r.block.withRegistry reg n' ∧
      r'.outcome.framing = r.outcome.framing ∧
      r'.event.toList.filter (fun v => regBit b.reg v.port) = r.event.toList.filter (fun v => regBit reg v.port) := by
  cases h with
  | wait hshort => exact ⟨_, n, .wait hshort, rfl, rfl, rfl⟩
  | syncHead hst hk => exact ⟨_, n, .syncHead hst hk, rfl, rfl, rfl⟩
  | syncSkip k hst hpos hk => exact ⟨_, n, .syncSkip k hst hpos hk, rfl, rfl, rfl⟩
  | nosyncDrop hst hlen hnone => exact ⟨_, n, .nosyncDrop hst hlen hnone, rfl, rfl, rfl⟩
  | hdrOk hst hlen hsize => exact ⟨_, n, .hdrOk hst hlen hsize, rfl, rfl, rfl⟩
  | errSize hst hlen hsize => exact ⟨_, n, .errSize hst hlen hsize, rfl, rfl, rfl⟩
  | errTrailer hst hlen ht => exact ⟨_, n, .errTrailer hst hlen ht, rfl, rfl, rfl⟩
  | errCrc hst hlen ht hcrc => exact ⟨_, n, .errCrc hst hlen ht hcrc, rfl, rfl, rfl⟩
  | frameDispatched hst hlen ht hcrc hreg =>
    obtain ⟨r', n', harm, hblock, hframing, hevent⟩ := RxArm.accept_withRegistry hst hlen ht hcrc reg n
    refine ⟨r', n', harm, hblock, hframing, ?_⟩
    rw [hevent]
    cases hreg' : regBit reg b.hPort <;> simp [hreg, hreg']
  | frameNoReceiver hst hlen ht hcrc hreg =>
    obtain ⟨r', n', harm, hblock, hframing, hevent⟩ := RxArm.accept_withRegistry hst hlen ht hcrc reg n
    refine ⟨r', n', harm, hblock, hframing, ?_⟩
    rw [hevent]
    cases hreg' : regBit reg b.hPort <;> simp [hreg]

/-- R119: outcomes with one framing agree on whether they are progress. -/
theorem StepOutcome.framing_progress (o : StepOutcome) : o.framing.progress = o.progress := by
  cases o <;> rfl

/-- R35, R60, R101: with another registry a drain does the same, in the sense of `RxArm.withRegistry`. -/
theorem drain_withRegistry (c : Config) (b : Block) (reg : BitVec 256) (n : Nat) :
    ∃ n', (drain c (b.withRegistry reg n)).block = (drain c b).block.withRegistry reg n' ∧
      (drain c (b.withRegistry reg n)).trace.map StepOutcome.framing = (drain c b).trace.map StepOutcome.framing ∧
      (drain c (b.withRegistry reg n)).events.filter (fun v => regBit b.reg v.port) =
        (drain c b).events.filter (fun v => regBit reg v.port) := by
  induction b using Block.induction_on_steps c generalizing n with
  | rest b h =>
    have h' : (b.withRegistry reg n).AtFixpoint c := h.with_ctr_reg _ reg
    rw [drain_of_atFixpoint h, drain_of_atFixpoint h']
    exact ⟨n, rfl, rfl, rfl⟩
  | more b hp ih =>
    obtain ⟨r', n₁, harm, hblock, hframing, hevent⟩ := (rxStep_arm c b).withRegistry reg n
    obtain ⟨n₂, hdrained, htrace, hevents⟩ := ih n₁
    have hp' : r'.progress = true := by
      rw [StepResult.progress, ← StepOutcome.framing_progress, hframing, StepOutcome.framing_progress]
      exact hp
    rw [(rxStep_arm c b).reg_eq] at hevents
    rw [drain_of_rxStep_eq harm.rxStep_eq hp', drain_of_progress hp, hblock]
    refine ⟨n₂, hdrained, ?_, ?_⟩
    · rw [DrainResult.after_trace, DrainResult.after_trace, List.map_cons, List.map_cons, hframing, htrace]
    · rw [DrainResult.after_events, DrainResult.after_events, List.filter_append, List.filter_append, hevent, hevents]

/-- Settles O45: the other registry alone is `withRegistry` with the counter as it stands. -/
theorem registryDoesNotAffectFraming : Obligations.RegistryDoesNotAffectFraming := by
  intro c b reg
  obtain ⟨n, hblock, htrace, hevents⟩ := drain_withRegistry c b reg b.ctr.noReceiver
  refine ⟨?_, htrace, hevents⟩
  have hn : (drain c (b.withRegistry reg b.ctr.noReceiver)).block.ctr.noReceiver = n := by rw [hblock]; rfl
  exact hblock.trans (by rw [← hn]; rfl)

end Isolation

end Sys2Proof.Machine
end

section
/-! Chunking (41_receiver_fsm.md R103): a drain of `x ++ y` against a drain of `x` and then one of `y`. Every progress
step of the first chunk happens in front of `y` as well (`RxArm.bufAppend`), but for the last scan that found no magic: there
the whole scan goes on into `y`, and the split one scans again from what the first scan kept. -/

namespace Sys2Proof.Machine

section Scan

variable {c : Config} {b : Block}

theorem magicStands_drop_iff {m : Magic} {s : Bytes} {n i : Nat} :
    MagicStands m (s.drop n) i ↔ MagicStands m s (n + i) := by
  simp [MagicStands, Nat.add_assoc]

/-- R92: a search may leave out leading bytes at which no magic begins. -/
theorem findSync_eq_map_drop {m : Magic} {s : Bytes} {n : Nat} (h : ∀ i < n, ¬ MagicStands m s i) :
    findSync m s = (findSync m (s.drop n)).map (n + ·) := by
  cases hdrop : findSync m (s.drop n) with
  | none =>
    refine findSync_eq_none_iff.2 fun i hi => ?_
    by_cases hlt : i < n
    · exact h i hlt hi
    · refine findSync_eq_none_iff.1 hdrop (i - n) (magicStands_drop_iff.2 ?_)
      rwa [Nat.add_sub_cancel' (Nat.le_of_not_lt hlt)]
  | some j =>
    obtain ⟨hj, hleast⟩ := findSync_eq_some_iff.1 hdrop
    refine findSync_eq_some_iff.2 ⟨magicStands_drop_iff.1 hj, fun i hi hstands => ?_⟩
    have hi : i < n + j := hi
    by_cases hlt : i < n
    · exact h i hlt hstands
    · refine hleast (i - n) (by omega) (magicStands_drop_iff.2 ?_)
      rwa [Nat.add_sub_cancel' (Nat.le_of_not_lt hlt)]

/-- R94: where a scan discards the last byte too, that byte cannot begin a magic. -/
theorem not_magicStart_of_nosyncCount_eq_length {s : Bytes} (hs : s ≠ []) (h : nosyncCount c s = s.length) :
    byteAt s (s.length - 1) ≠ c.hm.b0 := by
  have hpos := List.length_pos_iff.2 hs
  unfold nosyncCount at h
  split at h
  · omega
  · split at h
    · omega
    · assumption

/-- R94: no magic begins in what a scan discards, whatever comes behind it. -/
theorem not_magicStands_of_lt_nosyncCount {s : Bytes} (t : Bytes) (hnone : findSync c.hm s = none) {i : Nat}
    (hi : i < nosyncCount c s) : ¬ MagicStands c.hm (s ++ t) i := by
  have hle := nosyncCount_le_length c s
  by_cases hinside : i + 1 < s.length
  · rw [magicStands_append_iff t hinside]
    exact findSync_eq_none_iff.1 hnone i
  · rintro ⟨h0, -⟩
    obtain rfl : i = s.length - 1 := by omega
    have hs : s ≠ [] := List.length_pos_iff.1 (by omega)
    rw [List.getElem?_append_left (by omega)] at h0
    exact not_magicStart_of_nosyncCount_eq_length hs (by omega) (byteAt_of_getElem? h0)

theorem byteAt_drop {s : Bytes} {k i : Nat} (h : k + i < s.length) : byteAt (s.drop k) i = byteAt s (k + i) :=
  byteAt_of_getElem? (by rw [List.getElem?_drop, getElem?_byteAt h])

/-- R94: how much a scan discards is decided by the last byte, so a scan may be cut anywhere before it. -/
theorem nosyncCount_eq_add_drop {s : Bytes} {k : Nat} (hk : k < s.length) :
    nosyncCount c s = k + nosyncCount c (s.drop k) := by
  have hlast : byteAt (s.drop k) (s.length - k - 1) = byteAt s (s.length - 1) := by
    rw [byteAt_drop (by omega), show k + (s.length - k - 1) = s.length - 1 by omega]
  unfold nosyncCount
  rw [List.length_drop, hlast]
  split
  · omega
  · split <;> omega

/-! ## Dropping in two goes -/

/-- R93, R94: bytes leave the buffer and are counted as dropped. -/
def Block.dropCounted (b : Block) (c : Config) (k : Nat) : Block := (b.count c .droppedBytes k).bufDrop k

theorem Block.dropCounted_dropCounted (b : Block) (c : Config) (k l : Nat) :
    (b.dropCounted c k).dropCounted c l = b.dropCounted c (k + l) := by
  have hctr : (b.ctr.add c .droppedBytes k).add c .droppedBytes l = b.ctr.add c .droppedBytes (k + l) :=
    Counters.add_add ..
  simp only [Block.dropCounted, Block.count, Block.bufDrop, hctr, List.drop_drop]

/-- R94: what a scan that found no magic leaves is at a fixpoint. -/
theorem Block.dropCounted_nosyncCount_atFixpoint (hst : b.st = .searchingSync) :
    (b.dropCounted c (nosyncCount c b.buf)).AtFixpoint c := by
  have hlen : (b.dropCounted c (nosyncCount c b.buf)).buf.length = b.buf.length - nosyncCount c b.buf :=
    List.length_drop
  rw [Block.atFixpoint_iff, Block.window_of_searching (b := b.dropCounted c _) hst, hlen, magicW]
  rcases nosyncCount_cases c b.buf with h | h <;> omega

/-- R94: a drain that starts with a scan without a magic is that scan. -/
theorem drain_of_findSync_eq_none (hst : b.st = .searchingSync) (hlen : magicW ≤ b.buf.length)
    (hnone : findSync c.hm b.buf = none) :
    drain c b =
      { block := b.dropCounted c (nosyncCount c b.buf), events := [], trace := [.nosyncDrop, .wait] } := by
  have hrest : (b.dropCounted c (nosyncCount c b.buf)).AtFixpoint c :=
    Block.dropCounted_nosyncCount_atFixpoint hst
  rw [drain_of_rxStep_eq (RxArm.nosyncDrop hst hlen hnone).rxStep_eq rfl]
  exact congrArg (DrainResult.after · _) (drain_of_atFixpoint hrest)

/-- R93: the drain from a found magic, its offset 0 or not. -/
theorem drain_of_findSync_eq_some {j : Nat} (hst : b.st = .searchingSync) (hj : findSync c.hm b.buf = some j) :
    (drain c b).block = (drain c (stepSyncFound c b j).block).block ∧
      (drain c b).events = (drain c (stepSyncFound c b j).block).events := by
  have hstep : rxStep c b = stepSyncFound c b j :=
    (rxStep_searching hst).trans (stepSearching_of_findSync_eq_some hj)
  rcases Nat.eq_zero_or_pos j with rfl | hpos
  · rw [drain_of_rxStep_eq hstep rfl]
    exact ⟨rfl, rfl⟩
  · rw [stepSyncFound, if_pos hpos] at hstep ⊢
    rw [drain_of_rxStep_eq hstep rfl]
    exact ⟨rfl, rfl⟩

/-- R93: a magic found behind dropped bytes leaves the same block as one found at once. -/
theorem stepSyncFound_dropCounted_block (b : Block) {k : Nat} (hk : 0 < k) (j : Nat) :
    (stepSyncFound c (b.dropCounted c k) j).block = (stepSyncFound c b (k + j)).block := by
  have htotal : (stepSyncFound c b (k + j)).block = (b.dropCounted c (k + j)).goto .awaitingHeader := by
    rw [stepSyncFound, if_pos (Nat.add_pos_left hk j)]
    rfl
  rw [htotal]
  rcases Nat.eq_zero_or_pos j with rfl | hpos
  · rfl
  · rw [stepSyncFound, if_pos hpos, ← Block.dropCounted_dropCounted]
    rfl

/-! ## One scan against two -/

/-- R103: the block `w` that the whole stream leaves is the block `v` that the split stream leaves; under
`keep_if_prefix` it can also be `v` with its one byte dropped, a byte that cannot begin a magic. -/
def SameUpToTail (c : Config) (w v : Block) : Prop :=
  w = v ∨
    (c.syncTailRule = .keepIfPrefix ∧ v.st = .searchingSync ∧
      ∃ z, z ≠ c.hm.b0 ∧ v.buf = [z] ∧ w = v.dropCounted c 1)

/-- R94: of a single byte, a scan would discard nothing where the byte is kept, and the byte itself otherwise. -/
theorem nosyncCount_singleton (c : Config) (z : Byte) :
    nosyncCount c [z] = 0 ∨ (nosyncCount c [z] = 1 ∧ c.syncTailRule = .keepIfPrefix ∧ z ≠ c.hm.b0) := by
  cases hrule : c.syncTailRule with
  | keepLast => exact .inl (nosyncCount_of_keep (s := []) (.inl hrule))
  | keepIfPrefix =>
    by_cases hz : z = c.hm.b0
    · exact .inl (nosyncCount_of_keep (s := []) (.inr hz))
    · exact .inr ⟨nosyncCount_of_drop (s := []) hrule hz, rfl, hz⟩

/-- R94, R103: a last scan that finds no magic, against one that starts `k` bytes later. -/
theorem sameUpToTail_of_no_magic {k : Nat} (hst : b.st = .searchingSync) (hlt : k < b.buf.length)
    (hnone : findSync c.hm (b.buf.drop k) = none) :
    SameUpToTail c (b.dropCounted c (nosyncCount c b.buf)) (drain c (b.dropCounted c k)).block ∧
      (drain c (b.dropCounted c k)).events = [] := by
  have hst' : (b.dropCounted c k).st = .searchingSync := hst
  have hbuf' : (b.dropCounted c k).buf = b.buf.drop k := rfl
  rw [nosyncCount_eq_add_drop hlt]
  by_cases hlong : magicW ≤ (b.buf.drop k).length
  · rw [drain_of_findSync_eq_none hst' hlong hnone, hbuf', Block.dropCounted_dropCounted]
    exact ⟨.inl rfl, rfl⟩
  · have hshort : (b.buf.drop k).length < magicW := Nat.lt_of_not_le hlong
    have hrest : (b.dropCounted c k).AtFixpoint c := by
      rwa [Block.atFixpoint_iff, Block.window_of_searching hst', hbuf']
    rw [drain_of_atFixpoint hrest]
    obtain ⟨z, hz⟩ : ∃ z, b.buf.drop k = [z] := by
      refine List.length_eq_one_iff.1 ?_
      simp only [magicW, List.length_drop] at hshort ⊢
      omega
    rcases nosyncCount_singleton c z with hkeep | ⟨hdrop, hrule, hne⟩
    · rw [hz, hkeep]
      exact ⟨.inl rfl, rfl⟩
    · rw [hz, hdrop, ← Block.dropCounted_dropCounted]
      exact ⟨.inr ⟨hrule, hst', z, hne, hbuf'.trans hz, rfl⟩, rfl⟩

/-- R103: a drain against one of the same block with its first `k` bytes dropped, where no magic begins in these. -/
theorem drain_dropCounted {k : Nat} (hst : b.st = .searchingSync) (hk : 0 < k) (hlt : k < b.buf.length)
    (hfree : ∀ i < k, ¬ MagicStands c.hm b.buf i) :
    SameUpToTail c (drain c b).block (drain c (b.dropCounted c k)).block ∧
      (drain c b).events = (drain c (b.dropCounted c k)).events := by
  have hlen : magicW ≤ b.buf.length := by
    simp only [magicW]
    omega
  have hfind := findSync_eq_map_drop hfree
  cases hj : findSync c.hm (b.buf.drop k) with
  | none =>
    rw [hj] at hfind
    obtain ⟨hsame, hevents⟩ := sameUpToTail_of_no_magic hst hlt hj
    rw [drain_of_findSync_eq_none hst hlen hfind, hevents]
    exact ⟨hsame, rfl⟩
  | some j =>
    rw [hj] at hfind
    obtain ⟨hblock, hevents⟩ := drain_of_findSync_eq_some hst hfind
    obtain ⟨hblock', hevents'⟩ := drain_of_findSync_eq_some (b := b.dropCounted c k) hst hj
    rw [stepSyncFound_dropCounted_block b hk] at hblock' hevents'
    exact ⟨.inl (hblock.trans hblock'.symm), hevents.trans hevents'.symm⟩

end Scan

/-! ## One chunk against two -/

section Chunks

variable {c : Config} {b : Block}

theorem Block.bufAppend_nil (b : Block) : b.bufAppend [] = b := by
  simp [Block.bufAppend]

theorem Block.bufAppend_bufAppend (b : Block) (s t : Bytes) : (b.bufAppend s).bufAppend t = b.bufAppend (s ++ t) := by
  simp [Block.bufAppend]

/-- R94: the only arm that reports `NOSYNC_DROP`. -/
theorem RxArm.of_nosyncDrop {r : StepResult} (h : RxArm c b r) (ho : r.outcome = .nosyncDrop) :
    b.st = .searchingSync ∧ magicW ≤ b.buf.length ∧ findSync c.hm b.buf = none := by
  cases h with
  | nosyncDrop hst hlen hnone => exact ⟨hst, hlen, hnone⟩
  | _ => cases ho

/-- What R103 compares: the drain of a block with `y` behind it, and the drain of the block and then of `y` behind what
that leaves. -/
def ChunksAgree (c : Config) (b : Block) (y : Bytes) : Prop :=
  SameUpToTail c (drain c (b.bufAppend y)).block (drain c ((drain c b).block.bufAppend y)).block ∧
    (drain c (b.bufAppend y)).events = (drain c b).events ++ (drain c ((drain c b).block.bufAppend y)).events

/-- R103: where the first chunk ends in a scan without a magic, the second scan goes on where the first one stopped. -/
theorem chunksAgree_of_no_magic (hst : b.st = .searchingSync) (hlen : magicW ≤ b.buf.length)
    (hnone : findSync c.hm b.buf = none) (y : Bytes) : ChunksAgree c b y := by
  have hdrain := drain_of_findSync_eq_none hst hlen hnone
  have hrest : (drain c b).block.AtFixpoint c := drain_atFixpoint c b
  by_cases hy : y = []
  · subst hy
    rw [ChunksAgree, Block.bufAppend_nil, Block.bufAppend_nil, drain_of_atFixpoint hrest]
    exact ⟨.inl rfl, (List.append_nil _).symm⟩
  · have hle := nosyncCount_le_length c b.buf
    have hypos := List.length_pos_iff.2 hy
    have happend : (b.dropCounted c (nosyncCount c b.buf)).bufAppend y =
        (b.bufAppend y).dropCounted c (nosyncCount c b.buf) := Block.bufDrop_bufAppend _ y hle
    have hlt : nosyncCount c b.buf < (b.bufAppend y).buf.length := by
      rw [Block.bufAppend_buf, List.length_append]
      omega
    have hfree : ∀ i < nosyncCount c b.buf, ¬ MagicStands c.hm (b.bufAppend y).buf i :=
      fun i hi => not_magicStands_of_lt_nosyncCount y hnone hi
    rw [ChunksAgree, hdrain, happend]
    exact drain_dropCounted hst (nosyncCount_pos c hlen) hlt hfree

/-- R103: how a stream is split into two chunks matters at most for one byte at the end. -/
theorem chunksAgree (hf : b.FrameLenInv) (y : Bytes) : ChunksAgree c b y := by
  induction b using Block.induction_on_steps c with
  | rest b h =>
    rw [ChunksAgree, drain_of_atFixpoint h]
    exact ⟨.inl rfl, rfl⟩
  | more b hp ih =>
    by_cases ho : (rxStep c b).outcome = .nosyncDrop
    · obtain ⟨hst, hlen, hnone⟩ := (rxStep_arm c b).of_nosyncDrop ho
      exact chunksAgree_of_no_magic hst hlen hnone y
    · obtain ⟨hsame, hevents⟩ := ih ((rxStep_arm c b).frameLenInv hp)
      have hstep := ((rxStep_arm c b).bufAppend hf hp ho y).rxStep_eq
      rw [ChunksAgree, drain_of_rxStep_eq hstep hp, drain_of_progress hp]
      refine ⟨hsame, ?_⟩
      simp only [DrainResult.after_events, DrainResult.after_block, hevents, List.append_assoc]

/-- Settles O40: under `keep_last` no byte at the end is left to differ. -/
theorem chunkingDoesNotMatterKeepLast : Obligations.ChunkingDoesNotMatterKeepLast := by
  intro c b x y hrule hb _ _
  obtain ⟨hsame, hevents⟩ := chunksAgree (c := c) (b := b.bufAppend x) hb.frameLenInv y
  rw [Block.bufAppend_bufAppend] at hsame hevents
  rcases hsame with heq | ⟨hrule', -⟩
  · exact ⟨heq, hevents⟩
  · rw [hrule] at hrule'
    cases hrule'

/-- R103: what the two blocks have in common under either tail rule, and where they can differ. -/
theorem SameUpToTail.fields {w v : Block} (h : SameUpToTail c w v) :
    w.st = v.st ∧ w.reg = v.reg ∧
      { w.ctr with droppedBytes := v.ctr.droppedBytes } = v.ctr ∧
      (w.st = .awaitingBody → w.hSize = v.hSize ∧ w.hPort = v.hPort ∧ w.hCrc = v.hCrc ∧ w.fLen = v.fLen) ∧
      wrapAdd c w.ctr.droppedBytes w.buf.length = wrapAdd c v.ctr.droppedBytes v.buf.length ∧
      (w.buf = v.buf ∨
        ∃ z, z ≠ c.hm.b0 ∧ w.st = .searchingSync ∧
          ((w.buf = [] ∧ v.buf = [z] ∧ w.ctr.droppedBytes = wrapAdd c v.ctr.droppedBytes 1) ∨
            (v.buf = [] ∧ w.buf = [z] ∧ v.ctr.droppedBytes = wrapAdd c w.ctr.droppedBytes 1))) := by
  rcases h with rfl | ⟨-, hst, z, hz, hbuf, rfl⟩
  · exact ⟨rfl, rfl, rfl, fun _ => ⟨rfl, rfl, rfl, rfl⟩, rfl, .inl rfl⟩
  · have hempty : (v.dropCounted c 1).buf = [] := by simp [Block.dropCounted, hbuf]
    have hdropped : (v.dropCounted c 1).ctr.droppedBytes = wrapAdd c v.ctr.droppedBytes 1 := rfl
    refine ⟨rfl, rfl, rfl, fun _ => ⟨rfl, rfl, rfl, rfl⟩, ?_, .inr ⟨z, hz, hst, .inl ⟨hempty, hbuf, hdropped⟩⟩⟩
    rw [hempty, hdropped, hbuf]
    simp [wrapAdd]

/-- Settles O41: what `SameUpToTail` says of the fields. -/
theorem chunkingDoesNotMatterKeepIfPrefix : Obligations.ChunkingDoesNotMatterKeepIfPrefix := by
  intro c b x y _ hb _ _
  obtain ⟨hsame, hevents⟩ := chunksAgree (c := c) (b := b.bufAppend x) hb.frameLenInv y
  rw [Block.bufAppend_bufAppend] at hsame hevents
  exact ⟨hevents, hsame.fields⟩

end Chunks

end Sys2Proof.Machine
end
